-- ==== Sys2Proof/Word.lean ====
section
/-! DEFINITION. The plain widths of the block: bytes, 16-bit words, 32-bit frame words. -/

namespace Sys2Proof

/-- A byte, 8 bits (R10). -/
abbrev Byte := BitVec 8

/-- A word, `FIELD_BITS` = 16 bits (R7, R10): every field of both records is one unsigned word (R95). -/
abbrev Word := BitVec 16

/-- A 32-bit word: `CMD`, `ARG`, timeouts, collaborator codes, `RSP` (R28, R98, R103, R104). -/
abbrev Word32 := BitVec 32

end Sys2Proof
end

