-- ==== Sys2Proof/Config.lean ====
section
/-! DEFINITION. What an instance of the block fixes (R7 to R9), and the free values: constants without a body, so that
no proof can know them. -/

namespace Sys2Proof

/-- `REC_BYTES` (R7): the wire slot of one record. -/
@[simp] abbrev recBytes : Nat := 244

/-- `REC_WORDS` (R7): the wire slot seen as 16-bit words. -/
@[simp] abbrev recWords : Nat := 122

/-- `IN_AREA_BYTES` (R7): the double-width input area; 488 is kept as it is (R61). -/
@[simp] abbrev inAreaBytes : Nat := 488

/-- `OUT_AREA_BYTES` (R7). -/
@[simp] abbrev outAreaBytes : Nat := 244

/-- `N_SCALAR` (R7): the leading scalar fields of both records. -/
@[simp] abbrev nScalar : Nat := 16

/-- A driver or channel handle (R21): an opaque value of `HANDLE_BITS` bits. The block compares it and hands it on, and
does no arithmetic with it; the width is a parameter of the instance (log 13). -/
abbrev Handle := Nat

/-- `BYTE_ORDER` (R9, R11, R65). -/
inductive ByteOrder where
  | little
  | big
deriving DecidableEq, Repr

/-- `OUT_SEQ_ORDER` (R9, R93, R94): only the names of the output words past word 15 depend on it. -/
inductive SeqOrder where
  | paired
  | grouped
deriving DecidableEq, Repr

/-- The parameters of one instance of the block (R7, R9), never written at run time (R30). `N_VIEW` and `SEQ_LEN` are
parameters too, so that `BufferOverflow` can be reached (R97, V-C10). -/
structure Config where
  byteOrder          : ByteOrder
  outSeqOrder        : SeqOrder
  padByte            : Byte
  channelIndex       : Nat
  areaIndex          : Nat
  areaOffset         : Nat
  hostStateReady     : Nat
  busStateOn         : Nat
  rcOk               : Word32
  handleBits         : Nat
  nullHandle         : Handle
  boardNameMax       : Nat
  nView              : Nat
  seqLen             : Nat
  negotiateTimeoutMs : Word32
  pacingMs           : Word32
deriving DecidableEq, Repr

/-- `IN_NAMED_WORDS` (R8). -/
def Config.inNamedWords (c : Config) : Nat := nScalar + c.nView * c.seqLen

/-- `OUT_NAMED_WORDS` (R8). -/
def Config.outNamedWords (c : Config) : Nat := nScalar + 2 * c.nView * c.seqLen

/-- `OUT_NAMED_BYTES` (R8): the source's `sizeof(OutputRecord)`. -/
def Config.outNamedBytes (c : Config) : Nat := 2 * c.outNamedWords

/-- `IN_TAIL_WORDS` (R8). -/
def Config.inTailWords (c : Config) : Nat := recWords - c.inNamedWords

/-- `OUT_PAD_BYTES` (R8). -/
def Config.outPadBytes (c : Config) : Nat := recBytes - c.outNamedBytes

/-- The free value of width `w` number `draw`, item `index`: what an unspecified location holds, and what an
environment answers that nothing scripts (R4, R33, U9). DESIGN CHOICE (log 2, 4, 15): nothing constrains it. -/
opaque Config.freeBits : (w : Nat) → (draw : Nat) → (index : Nat) → BitVec w

/-- `BOARD_NAME_MAX` of the reference instance (R9, D11: OPEN). DESIGN CHOICE (log 12): nothing constrains it. -/
opaque Config.openBoardNameMax : Nat

/-- The reference values (R7, R9). -/
def Config.reference : Config where
  byteOrder          := .little
  outSeqOrder        := .paired
  padByte            := 0x00#8
  channelIndex       := 0
  areaIndex          := 0
  areaOffset         := 0
  hostStateReady     := 1
  busStateOn         := 1
  rcOk               := 0#32
  handleBits         := 64
  nullHandle         := 0
  boardNameMax       := Config.openBoardNameMax
  nView              := 4
  seqLen             := 8
  negotiateTimeoutMs := 1000#32
  pacingMs           := 3000#32

end Sys2Proof
end

