-- ==== Sys2Proof/Syntax.lean ====
section
/-! DEFINITION. The command frame and the nine commands, one constructor per row of the command table (R3, R98 to
R100). -/

namespace Sys2Proof

/-- A command frame: `CMD` then `ARG` (R98). OPEN's third item, `BOARD_NAME`, is no part of the frame (R108). -/
structure Frame where
  cmd : Word32
  arg : Word32
deriving DecidableEq, Repr

/-- The nine commands (R99, R100). A command whose `ARG` is ignored has no operand; `write` has the verify flag `V`. -/
inductive Instr where
  /-- DECODE: `len` leading bytes of `RX_AREA` are provided (R122). -/
  | decode (len : Word32)
  /-- ENCODE (R126). -/
  | encode
  /-- OPEN; the operand is the register `BOARD_NAME` (R141). -/
  | openCh
  /-- NEGOTIATE (R144). -/
  | negotiate
  /-- CLOSE (R148). -/
  | close
  /-- READ with timeout `t` in milliseconds (R161). -/
  | read (t : Word32)
  /-- WRITE (`v` = false) or WRITE.V (`v` = true) with timeout `t` (R164). -/
  | write (v : Bool) (t : Word32)
  /-- TICK with timeout `t` (R185). -/
  | tick (t : Word32)
  /-- RUN with timeout `t` (R188). -/
  | run (t : Word32)
deriving DecidableEq, Repr

end Sys2Proof
end

