-- ==== Sys2Proof/WellFormed.lean ====
section
/-! DEFINITION. The checks on frames and on instances. Every term of `Instr` is a command some legal frame stands for:
its operands are 32-bit words by type (R99) and no operand value is an illegal encoding (R102). -/

namespace Sys2Proof

/-- The ten legal values of `CMD` (R100). -/
def legalWords : List Word32 :=
  [0x00000001#32, 0x00000002#32, 0x00000010#32, 0x00000011#32, 0x00000012#32,
   0x00000020#32, 0x00000021#32, 0x00000121#32, 0x00000030#32, 0x00000031#32]

/-- A frame is legal when its `CMD` is one of the ten legal words (R101); `ARG` may be anything. -/
def Frame.legal (f : Frame) : Bool := legalWords.contains f.cmd

/-- The size invariant `sizeof(OutputRecord) ≤ 244` (R97). An instance that breaks it is still a block: its ENCODE
responds `BufferOverflow` (R125). -/
def Config.sizeOk (c : Config) : Bool := decide (c.outNamedBytes ≤ recBytes)

/-- The null handle is a value of `HANDLE_BITS` bits (R9). -/
def Config.handleOk (c : Config) : Bool := decide (c.nullHandle < 2 ^ c.handleBits)

end Sys2Proof
end

