-- ==== Sys2Proof/Decode.lean ====
section
/-! DEFINITION. The decoder of R101, total on every frame and rejecting by name, and the encoder written from the same
tables (R98 to R100, R110). -/

namespace Sys2Proof

/-- `OPC`, bits 7 to 0 of `CMD` (R98). -/
def Frame.opc (f : Frame) : BitVec 8 := f.cmd.extractLsb' 0 8

/-- `V`, bit 8 of `CMD` (R98). -/
def Frame.v (f : Frame) : Bool := f.cmd.getLsbD 8

/-- `RSV`, bits 31 to 9 of `CMD` (R98). -/
def Frame.rsv (f : Frame) : BitVec 23 := f.cmd.extractLsb' 9 23

/-- Why a frame is not legal (R102). -/
inductive DecodeError where
  /-- `RSV` is not 0. -/
  | reservedBits
  /-- `V` is 1 with an operation other than WRITE. -/
  | strayVerifyFlag
  /-- `OPC` is one of the 247 unassigned values. -/
  | unassignedOpcode
deriving DecidableEq, Repr

/-- The command `OPC` selects (R100); `v` and `arg` are the operands it may use (R99). -/
def instrOf (opc : BitVec 8) (v : Bool) (arg : Word32) : Option Instr :=
  match opc.toNat with
  | 0x01 => some (.decode arg)
  | 0x02 => some .encode
  | 0x10 => some .openCh
  | 0x11 => some .negotiate
  | 0x12 => some .close
  | 0x20 => some (.read arg)
  | 0x21 => some (.write v arg)
  | 0x30 => some (.tick arg)
  | 0x31 => some (.run arg)
  | _ => none

/-- The decoding procedure (R101): reserved bits, then the place of `V`, then the operation code. -/
def decodeFrame (f : Frame) : Except DecodeError Instr :=
  if f.rsv ≠ 0#23 then .error .reservedBits
  else if f.v = true ∧ f.opc ≠ 0x21#8 then .error .strayVerifyFlag
  else
    match instrOf f.opc f.v f.arg with
    | some i => .ok i
    | none => .error .unassignedOpcode

/-- The operation code of a command (R100). -/
def Instr.opc : Instr → BitVec 8
  | .decode _ => 0x01#8
  | .encode => 0x02#8
  | .openCh => 0x10#8
  | .negotiate => 0x11#8
  | .close => 0x12#8
  | .read _ => 0x20#8
  | .write _ _ => 0x21#8
  | .tick _ => 0x30#8
  | .run _ => 0x31#8

/-- The verify flag of a command: 0 in every command but WRITE.V (R98). -/
def Instr.verifyFlag : Instr → Bool
  | .write v _ => v
  | .decode _ | .encode | .openCh | .negotiate | .close | .read _ | .tick _ | .run _ => false

/-- The operand word of a command; the assembler writes 0 where it is ignored (R99, R110). -/
def Instr.argWord : Instr → Word32
  | .decode len => len
  | .read t => t
  | .write _ t => t
  | .tick t => t
  | .run t => t
  | .encode | .openCh | .negotiate | .close => 0#32

/-- The frame of a command (R98): `RSV` = 0, then `V`, then `OPC`. -/
def encodeInstr (i : Instr) : Frame where
  cmd := 0#23 ++ BitVec.ofBool i.verifyFlag ++ i.opc
  arg := i.argWord

/-- The frame whose bits are `w`, numbered as the command table numbers them: `CMD` is bits 31 to 0 and `ARG` bits 63
to 32; every bit from `nbits` on is 0. A frame is two 32-bit words and no byte order enters (R98; log 22). -/
def frameOfTableWord (nbits w : Nat) : Frame where
  cmd := BitVec.ofNat 32 (w % 2 ^ nbits)
  arg := BitVec.ofNat 32 ((w % 2 ^ nbits) / 2 ^ 32)

/-- The command the decoder reads from the bits `w`. -/
def decodeTableWord (nbits w : Nat) : Option Instr :=
  match decodeFrame (frameOfTableWord nbits w) with
  | .ok i => some i
  | .error _ => none

end Sys2Proof
end

