-- ==== Sys2Proof/Machine/Memory.lean ====
section
/-! DEFINITION. The block's register files and byte buffers as sparse data in one canonical form. A listed item has the
value some rule gave it; an unlisted item is unspecified (R12, R33, U9): it reads as a free value that stays the same
until a rule writes it or makes it unspecified anew (log 2, 3). -/

namespace Sys2Proof.Machine

/-- A file of `w`-bit items: the items that hold a specified value, by rising index, and the number of the free values
that stand for all others. -/
structure Region (w : Nat) where
  cells : List (Nat × BitVec w)
  draw  : Nat
deriving DecidableEq, Repr

/-- A byte buffer (R26, R60): its cells are `Host.Cell`s. -/
abbrev Memory := Region 8

/-- A record register file (R24, R25). -/
abbrev RegFile := Region 16

/-- The value listed for index `i`. -/
def lookupCell {w : Nat} : List (Nat × BitVec w) → Nat → Option (BitVec w)
  | [], _ => none
  | (a, v) :: rest, i => if a = i then some v else lookupCell rest i

/-- The listing with index `i` set to `v`, indexes still rising. -/
def insertCell {w : Nat} : List (Nat × BitVec w) → Nat → BitVec w → List (Nat × BitVec w)
  | [], i, v => [(i, v)]
  | (a, b) :: rest, i, v =>
    if i < a then (i, v) :: (a, b) :: rest
    else if i = a then (i, v) :: rest
    else (a, b) :: insertCell rest i v

/-- The values `vs` listed from index `base` on. -/
def cellsFrom {w : Nat} : Nat → List (BitVec w) → List (Nat × BitVec w)
  | _, [] => []
  | base, v :: vs => (base, v) :: cellsFrom (base + 1) vs

/-- The indexes are at least `lo`, strictly rising, and below `size`. -/
def risingBelow {w : Nat} (size : Nat) : Nat → List (Nat × BitVec w) → Bool
  | _, [] => true
  | lo, (a, _) :: rest => decide (lo ≤ a) && (decide (a < size) && risingBelow size (a + 1) rest)

/-- What item `i` holds: its specified value, else the free value that stands for it (R33, U9). -/
def Region.read {w : Nat} (r : Region w) (i : Nat) : BitVec w :=
  (lookupCell r.cells i).getD (Config.freeBits w r.draw i)

/-- Item `i` has a specified value. -/
def Region.specified {w : Nat} (r : Region w) (i : Nat) : Bool := (lookupCell r.cells i).isSome

/-- The region with item `i` set to `v`. -/
def Region.write {w : Nat} (r : Region w) (i : Nat) (v : BitVec w) : Region w :=
  { r with cells := insertCell r.cells i v }

/-- The region whose first items are `vs` and whose further items are the free values number `draw`. -/
def Region.filled {w : Nat} (vs : List (BitVec w)) (draw : Nat) : Region w where
  cells := cellsFrom 0 vs
  draw := draw

/-- The region in which every item is unspecified (R12): the free values number `draw`. -/
def Region.unspecified (w draw : Nat) : Region w where
  cells := []
  draw := draw

/-- The first `n` items, in order. -/
def Region.toList {w : Nat} (r : Region w) (n : Nat) : List (BitVec w) := (List.range n).map r.read

/-- The canonical form of a region of `size` items. An unlisted item has no value in the model, so no entry can equal
what an unlisted item reads as. -/
def Region.wf {w : Nat} (size : Nat) (r : Region w) : Bool := risingBelow size 0 r.cells

/-- The canonical form of a byte buffer of `size` bytes. -/
def Memory.wf (size : Nat) (m : Memory) : Bool := Region.wf size m

end Sys2Proof.Machine
end

