-- ==== Sys2Proof/Machine/State.lean ====
section
/-! DEFINITION. The state of the block (R20 to R33), the ports it has to its environment (R14, R29), and its reset. -/

namespace Sys2Proof.Machine

/-- The session state `STATE` (R20). -/
inductive Session where
  | closed
  | opened
  /-- Visible only inside NEGOTIATE (R144, R145 (a)). -/
  | hostReady
  | busOn
  | active
deriving DecidableEq, Repr

/-- The statuses a command can respond (R103, R201). -/
inductive Status where
  | ok
  | openFailed
  | negotiationFailed
  | readFailed
  | writeFailed
  | sizeMismatch
  | bufferOverflow
  | refused
  | illegalCommand
deriving DecidableEq, Repr

/-- `LAST_PHASE` (R27): which of its two steps an OPEN or a NEGOTIATE failed in. -/
inductive Phase where
  | none
  /-- 1: driver open, or host state. -/
  | first
  /-- 2: channel open, or bus state. -/
  | second
deriving DecidableEq, Repr

/-- `LAST_VERIFY` (R27): the result of a write's read-back. -/
inductive Verify where
  | notDone
  | isMatch
  | mismatch
  | readBackFailed
deriving DecidableEq, Repr

/-- A control signal (R106, R183). -/
inductive Signal where
  /-- `Continue`. -/
  | cont
  | writeNow
  | terminate
deriving DecidableEq, Repr

/-- The collaborator primitives, each with its arguments (R14, R105). -/
inductive Primitive where
  | drvOpen
  | drvClose (dh : Handle)
  | chOpen (dh : Handle) (name : List Byte) (idx : Nat)
  | chClose (ch : Handle)
  | setHostState (ch : Handle) (state : Nat) (t : Word32)
  | setBusState (ch : Handle) (state : Nat) (t : Word32)
  | chRead (ch : Handle) (area off len : Nat) (t : Word32)
  | chWrite (ch : Handle) (area off len : Nat) (data : List Byte) (t : Word32)
  | chReadBack (ch : Handle) (area off len : Nat) (t : Word32)
  /-- Part of the collaborator's contract; the block never issues it (R225). -/
  | errDesc (code : Word32)
deriving DecidableEq, Repr

/-- One answer on the collaborator port (R14). Each primitive takes the items its row of R14 gives it and ignores the
others (log 5). Bytes past the end of `data` are unspecified. -/
structure Answer where
  ok   : Bool := true
  h    : Handle := 0
  code : Word32 := 0#32
  data : List Byte := []
deriving DecidableEq, Repr

/-- What the collaborator does with a request. -/
inductive PortEvent where
  | answer (a : Answer)
  /-- It never answers (R249 (b), U19). -/
  | silence
deriving DecidableEq, Repr

/-- The reset input as the running command meets it at one point that can be observed: a request, an event, the poll,
the pacing wait, the response (R240; log 8). -/
inductive ResetInput where
  | quiet
  /-- Reset before that point: the request is not issued, the event not emitted, the response not given. -/
  | before
  /-- Reset while the request is outstanding, its answer is dropped; or during the pacing wait. At an event, the poll or
  the response, which take no time, the same as `before`. -/
  | during
deriving DecidableEq, Repr

/-- The events TICK and RUN emit (R182). -/
inductive Event where
  | consumer (record : List Word)
  | warn (status : Status) (phase : Phase) (code : Word32)
  | verify (result : Verify) (code : Word32)
deriving DecidableEq, Repr

/-- Everything the host can read (R20 to R28): all of the block's registers and buffers but the handle values (R21). -/
structure Visible where
  sess       : Session
  drvValid   : Bool
  chValid    : Bool
  busy       : Bool
  inRec      : RegFile
  inValid    : Bool
  outRec     : RegFile
  rxArea     : Memory
  txBuf      : Memory
  txValid    : Bool
  rbBuf      : Memory
  lastStatus : Status
  lastPhase  : Phase
  lastCode   : Word32
  lastVerify : Verify
  rbCode     : Word32
  lastTerm   : Bool
  cmd        : Word32
  arg        : Word32
  boardName  : List Byte
deriving DecidableEq, Repr

/-- The host-readable registers and bytes by name (R20 to R28, R103, R110). No name stands for a handle (R21). -/
inductive HostReg where
  | sess | drvValid | chValid | busy
  | inRec (k : Nat) | inValid
  | outRec (k : Nat)
  | rxArea (i : Nat) | txBuf (i : Nat) | txValid | rbBuf (i : Nat)
  | lastStatus | lastPhase | lastCode | lastVerify | rbCode | lastTerm
  | rsp
  | cmd | arg | boardName
deriving DecidableEq, Repr

/-- What a host read gives: a number, zero-extended to 32 bits, or a byte string. -/
inductive HostValue where
  | bits (v : Word32)
  | bytes (bs : List Byte)
deriving DecidableEq, Repr

/-- What the host can do to the block (R25 to R28, R110, R227, R240). -/
inductive HostAction where
  | setCmd (v : Word32)
  | setArg (v : Word32)
  | setBoardName (name : List Byte)
  | setOutRec (k : Nat) (v : Word)
  | setRxArea (i : Nat) (b : Byte)
  | get (r : HostReg)
  /-- Present the frame the operand registers hold (R15, R28). -/
  | present
  /-- Do nothing: the block goes on by itself for one step, so that the host's accesses can fall between any two ticks of
  a RUN (log 10). -/
  | wait
  /-- Reset (R240). -/
  | reset
deriving DecidableEq, Repr

/-- One entry of the observable history (R29, R223, R251; log 17). -/
inductive Obs where
  /-- A primitive was issued; `answer` is `none` if a reset or silence kept its answer from the block; `seen` is what
  the host could read while it was outstanding (R15). -/
  | call (p : Primitive) (answer : Option Answer) (seen : Visible)
  | event (e : Event)
  /-- The control signal was polled (R183). -/
  | poll (ctrl : BitVec 2)
  /-- The pacing wait was entered (R187). -/
  | wait (ms : Word32)
  /-- The response frame (R103). -/
  | response (rsp code : Word32)
  /-- The host read a register. -/
  | got (r : HostReg) (v : HostValue)
  | reset
deriving DecidableEq, Repr

/-- What goes on between two steps: `BUSY` = 0, a RUN between two ticks, or a command whose primitive is never
answered (R15, R190, R249). -/
inductive Activity where
  | idle
  /-- RUN with its latched timeout (R191 (f)). -/
  | runLoop (t : Word32)
  /-- The request that is outstanding for ever (U19). -/
  | hung (p : Primitive)
deriving DecidableEq, Repr

/-- The state of the block and of its ports; `INVENTORY.md` lists every field with its rule and its reset value. -/
structure State where
  sess        : Session
  drvH        : Handle
  chH         : Handle
  drvValid    : Bool
  chValid     : Bool
  busy        : Bool
  inRec       : RegFile
  inValid     : Bool
  outRec      : RegFile
  rxArea      : Memory
  txBuf       : Memory
  txValid     : Bool
  rbBuf       : Memory
  lastStatus  : Status
  lastPhase   : Phase
  lastCode    : Word32
  lastVerify  : Verify
  rbCode      : Word32
  lastTerm    : Bool
  cmd         : Word32
  arg         : Word32
  boardName   : List Byte
  activity    : Activity
  cfg         : Config
  hostPort    : List HostAction
  collab      : List PortEvent
  resetLine   : List ResetInput
  ctrlPort    : List (BitVec 2)
  payloadPort : List (List Word)
  history     : List Obs
  draws       : Nat
deriving DecidableEq, Repr

/-- Why a step can stop with a fault. No command raises one: the errors of R201 are responses (R13, R200). -/
inductive Fault where
  /-- Raised by a host access that names a word or a byte that does not exist (R24 to R26; log 11). Safe: the spec
  gives no such access. -/
  | noSuchLocation
  /-- Raised by a host write of a board name longer than `BOARD_NAME_MAX` (R28; log 11). Safe: the register cannot
  hold it. -/
  | boardNameTooLong
deriving DecidableEq, Repr

/-- Why a step can be refused. -/
inductive Refusal where
  /-- Raised by an arm of `exec` whose command has no meaning yet; there is none. Safe. -/
  | notModelled (mnemonic : String)
deriving DecidableEq, Repr

/-- What the host can read of a state. -/
def State.visible (s : State) : Visible where
  sess := s.sess
  drvValid := s.drvValid
  chValid := s.chValid
  busy := s.busy
  inRec := s.inRec
  inValid := s.inValid
  outRec := s.outRec
  rxArea := s.rxArea
  txBuf := s.txBuf
  txValid := s.txValid
  rbBuf := s.rbBuf
  lastStatus := s.lastStatus
  lastPhase := s.lastPhase
  lastCode := s.lastCode
  lastVerify := s.lastVerify
  rbCode := s.rbCode
  lastTerm := s.lastTerm
  cmd := s.cmd
  arg := s.arg
  boardName := s.boardName

/-- Every piece of the block's state at its reset value (R33, R240), nothing on the ports. The five unspecified
regions stand for the free values number `n` to `n + 4` (log 2). -/
def State.cleared (c : Config) (n : Nat) : State where
  sess := .closed
  drvH := c.nullHandle
  chH := c.nullHandle
  drvValid := false
  chValid := false
  busy := false
  inRec := Region.unspecified 16 n
  inValid := false
  outRec := Region.unspecified 16 (n + 1)
  rxArea := Region.unspecified 8 (n + 2)
  txBuf := Region.unspecified 8 (n + 3)
  txValid := false
  rbBuf := Region.unspecified 8 (n + 4)
  lastStatus := .ok
  lastPhase := .none
  lastCode := 0#32
  lastVerify := .notDone
  rbCode := 0#32
  lastTerm := false
  cmd := 0#32
  arg := 0#32
  boardName := []
  activity := .idle
  cfg := c
  hostPort := []
  collab := []
  resetLine := []
  ctrlPort := []
  payloadPort := []
  history := []
  draws := n + 5

/-- The reference instance right after reset (R33). -/
def State.reset : State := State.cleared Config.reference 0

end Sys2Proof.Machine
end

