-- ==== Sys2Proof/Machine/Flags.lean ====
section
/-! DEFINITION. The codes of the response registers (R20, R27, R103), the response word `RSP`, and the one operation
that ends a command with a status (R13), the block's analogue of taking an exception. -/

namespace Sys2Proof.Machine

/-- The encoding of `STATE` (R20). -/
def Session.code : Session → BitVec 3
  | .closed => 0#3
  | .opened => 1#3
  | .hostReady => 2#3
  | .busOn => 3#3
  | .active => 4#3

/-- The status numbers (R103). -/
def Status.code : Status → BitVec 8
  | .ok => 0x00#8
  | .openFailed => 0x01#8
  | .negotiationFailed => 0x02#8
  | .readFailed => 0x03#8
  | .writeFailed => 0x04#8
  | .sizeMismatch => 0x05#8
  | .bufferOverflow => 0x06#8
  | .refused => 0x80#8
  | .illegalCommand => 0x81#8

/-- The values of `LAST_PHASE` (R27). -/
def Phase.code : Phase → BitVec 2
  | .none => 0#2
  | .first => 1#2
  | .second => 2#2

/-- The values of `LAST_VERIFY` (R27). -/
def Verify.code : Verify → BitVec 2
  | .notDone => 0#2
  | .isMatch => 1#2
  | .mismatch => 2#2
  | .readBackFailed => 3#2

/-- `RSP` (R103): bits 31 to 16 are 0, then `TERM`, `STATE`, `VERIFY`, `PHASE`, `STATUS`. -/
def rspWord (st : Status) (ph : Phase) (vf : Verify) (sess : Session) (term : Bool) : Word32 :=
  0#16 ++ BitVec.ofBool term ++ sess.code ++ vf.code ++ ph.code ++ st.code

/-- The `RSP` word the response registers and the present `STATE` make up (R103). DESIGN CHOICE (log 32): the host can
read it at any time, so also while a RUN runs, when `STATE` is newer than the response registers, and after a reset. -/
def Visible.rsp (v : Visible) : Word32 := rspWord v.lastStatus v.lastPhase v.lastVerify v.sess v.lastTerm

/-- What a command responds, or hands back to the sequencer as a sub-operation (R13, R180). An item that is not given
is 0, as R27 says of every response register. -/
structure Reply where
  status : Status := .ok
  phase  : Phase := .none
  code   : Word32 := 0#32
  verify : Verify := .notDone
  rbCode : Word32 := 0#32
  term   : Bool := false
deriving DecidableEq, Repr

/-- `Refused` (R208). -/
def Reply.refused : Reply := { status := .refused }

/-- The response registers as the reply gives them (R27). -/
def State.withReply (s : State) (r : Reply) : State :=
  { s with lastStatus := r.status, lastPhase := r.phase, lastCode := r.code, lastVerify := r.verify,
           rbCode := r.rbCode, lastTerm := r.term }

/-- One more entry of the observable history. -/
def State.observe (s : State) (o : Obs) : State := { s with history := s.history ++ [o] }

/-- `BUSY <- 1`: a command is accepted (R15). -/
def State.begin (s : State) : State := { s with busy := true }

/-- `BUSY <- 0`: the command has ended (R15). -/
def State.finish (s : State) : State := { s with busy := false, activity := .idle }

/-- `respond` (R13): write the response registers, send the response frame (R103), end the command (R15). Every
command of the host ends here, with whatever status; there is no handler and no return (R200, R214). -/
def respond (r : Reply) (s : State) : State :=
  ((s.withReply r).observe
    (.response (rspWord r.status r.phase r.verify s.sess r.term) r.code)).finish

end Sys2Proof.Machine
end

