-- ==== Sys2Proof/Machine/Operands.lean ====
section
/-! DEFINITION. How words lie in bytes (R11), where the named fields of the records lie (R91, R93, R94), and how the
operands of the commands are read. -/

namespace Sys2Proof.Machine

/-- The word whose byte at the even offset is `b0` and whose byte at the odd offset is `b1` (R11). -/
def wordOf (bo : ByteOrder) (b0 b1 : Byte) : Word :=
  match bo with
  | .little => b1 ++ b0
  | .big => b0 ++ b1

/-- The byte that `PutWord` stores for word `v` (R11): `odd` = false at the even offset, `odd` = true at the odd one. -/
def byteOf (bo : ByteOrder) (v : Word) (odd : Bool) : Byte :=
  match bo, odd with
  | .little, false => v.extractLsb' 0 8
  | .little, true => v.extractLsb' 8 8
  | .big, false => v.extractLsb' 8 8
  | .big, true => v.extractLsb' 0 8

/-- `Word(buf, k)` (R11). -/
def Region.word (bo : ByteOrder) (buf : Memory) (k : Nat) : Word :=
  wordOf bo (buf.read (2 * k)) (buf.read (2 * k + 1))

/-- The sixteen scalar fields both records begin with (R91, R93). -/
inductive ScalarField where
  | stateBits1 | stateBits2
  | year | month | day | hours | minutes | seconds
  | interval1 | interval2 | interval3 | interval4
  | reserved13 | reserved14 | reserved15 | reserved16
deriving DecidableEq, Repr

/-- The word of a scalar field (R91): the source's field number minus 1. -/
def ScalarField.index : ScalarField → Nat
  | .stateBits1 => 0
  | .stateBits2 => 1
  | .year => 2
  | .month => 3
  | .day => 4
  | .hours => 5
  | .minutes => 6
  | .seconds => 7
  | .interval1 => 8
  | .interval2 => 9
  | .interval3 => 10
  | .interval4 => 11
  | .reserved13 => 12
  | .reserved14 => 13
  | .reserved15 => 14
  | .reserved16 => 15

/-- A named field of the InputRecord, views counted from 1 and elements from 0 (R91). -/
inductive InField where
  | scalar (f : ScalarField)
  | setpoint (view j : Nat)
  | tail (j : Nat)
deriving DecidableEq, Repr

/-- The word of a field of the InputRecord (R91), `none` if the record has no such field. -/
def InField.index (c : Config) : InField → Option Nat
  | .scalar f => some f.index
  | .setpoint v j =>
    if 1 ≤ v ∧ v ≤ c.nView ∧ j < c.seqLen then some (nScalar + c.seqLen * (v - 1) + j) else none
  | .tail j => if j < c.inTailWords then some (c.inNamedWords + j) else none

/-- A named field of the OutputRecord (R93). -/
inductive OutField where
  | scalar (f : ScalarField)
  | value (view j : Nat)
  | valueQuality (view j : Nat)
deriving DecidableEq, Repr

/-- The word of a field of the OutputRecord: R93 with `paired`, R94 with `grouped`; `none` if there is no such
field. -/
def OutField.index (c : Config) : OutField → Option Nat
  | .scalar f => some f.index
  | .value v j =>
    if 1 ≤ v ∧ v ≤ c.nView ∧ j < c.seqLen then
      match c.outSeqOrder with
      | .paired => some (nScalar + 2 * c.seqLen * (v - 1) + j)
      | .grouped => some (nScalar + c.seqLen * (v - 1) + j)
    else none
  | .valueQuality v j =>
    if 1 ≤ v ∧ v ≤ c.nView ∧ j < c.seqLen then
      match c.outSeqOrder with
      | .paired => some (nScalar + c.seqLen + 2 * c.seqLen * (v - 1) + j)
      | .grouped => some (nScalar + c.nView * c.seqLen + c.seqLen * (v - 1) + j)
    else none

/-- `IN_REC.field` (R12, R24). -/
def State.inField (s : State) (f : InField) : Option Word := (f.index s.cfg).map s.inRec.read

/-- `OUT_REC.field` (R12, R25). -/
def State.outField (s : State) (f : OutField) : Option Word := (f.index s.cfg).map s.outRec.read

/-- The session is ready for cyclic I/O: `STATE ∈ {BusOn, Active}` (R160). -/
def State.ready (s : State) : Bool := s.sess == .busOn || s.sess == .active

/-- The control signal a value of `CTRL` stands for (R106): the reserved value 3 is `Continue`. -/
def signalOf (ctrl : BitVec 2) : Signal :=
  match ctrl.toNat with
  | 1 => .writeNow
  | 2 => .terminate
  | _ => .cont

/-- What an operator character stands for (R113): a command of the host, or a value of `CTRL`. -/
inductive Operator where
  | command (i : Instr)
  | control (ctrl : BitVec 2)
deriving DecidableEq, Repr

/-- The expansion of the operator characters `r`, `w`, `q` and escape (R113); `t` is the host's timeout. Any other
character leaves `CTRL` at `Continue`. The prompt that reads them is outside the block (R6); the character codes are
PRESUMED (log 29). -/
def operatorOf (t : Word32) (c : Byte) : Operator :=
  match c.toNat with
  | 0x72 => .command (.run t)
  | 0x77 => .control 1#2
  | 0x71 => .control 2#2
  | 0x1B => .control 2#2
  | _ => .control 0#2

/-- The 122 words of `IN_REC` (R24, R182). -/
def State.inWords (s : State) : List Word := s.inRec.toList recWords

/-- The 244 bytes of `TX_BUF` a WRITE sends (R164, R165 (a)). -/
def State.txBytes (s : State) : List Byte := s.txBuf.toList outAreaBytes

end Sys2Proof.Machine
end

