-- ==== Sys2Proof/Machine/Ops.lean ====
section
/-! DEFINITION. The shared operations: free values, reset, one collaborator call, the poll, the payload, the pacing
wait, the transfers into the buffers, the release of the handles. A command that calls the collaborator is written in
the order of its pseudocode; what comes after a call is the function `k` the call is given, so that a reset or a silent
collaborator can cut the command off there. -/

namespace Sys2Proof.Machine

/-- One free value drawn: the next draw has another number (log 2). -/
def State.drawn (s : State) : State := { s with draws := s.draws + 1 }

/-- Reset (R240, R241): every piece of the block's state at its reset value, unspecified items as new free values; a
running command is abandoned, nothing is closed. The instance, the inputs still to come and the history stay
(log 19). -/
def hardReset (s : State) : State :=
  { State.cleared s.cfg s.draws with
    hostPort := s.hostPort, collab := s.collab, resetLine := s.resetLine, ctrlPort := s.ctrlPort,
    payloadPort := s.payloadPort, history := s.history ++ [.reset] }

/-- The answer nobody has scripted: every item is a free value (R4, R221; log 4). -/
def Answer.free (c : Config) (draw : Nat) : Answer where
  ok := (Config.freeBits 1 draw 0).getLsbD 0
  h := (Config.freeBits c.handleBits draw 1).toNat
  code := Config.freeBits 32 draw 2
  data := []

/-- What the collaborator does with the next request (R14), and the state after it is taken from the port. -/
def takeAnswer (s : State) : PortEvent × State :=
  match s.collab with
  | [] => (.answer (Answer.free s.cfg s.draws), s.drawn)
  | e :: rest => (e, { s with collab := rest })

/-- The reset input at this point of the command, and the state after it is taken; with nothing scripted it is quiet
(R240; log 8). -/
def takeReset (s : State) : ResetInput × State :=
  match s.resetLine with
  | [] => (.quiet, s)
  | r :: rest => (r, { s with resetLine := rest })

/-- Go on as `k` says unless a reset comes here: then the command is abandoned (R240; log 8). -/
def orReset (s : State) (k : State → State) : State :=
  match takeReset s with
  | (.quiet, s1) => k s1
  | (.before, s1) => hardReset s1
  | (.during, s1) => hardReset s1

/-- The request `p` stays outstanding for ever and `BUSY` stays 1 (R249 (b), U19; log 9). -/
def hang (p : Primitive) (s : State) : State := { s with activity := .hung p }

/-- One request and one answer on the collaborator port (R14, R220): issue `p`, wait, go on as `k` says. A reset here
abandons the command (R240): before the request is issued, or while it is outstanding, when its answer is dropped. -/
def callThen (p : Primitive) (s : State) (k : Answer → State → State) : State :=
  match takeReset s with
  | (.before, s1) => hardReset s1
  | (.during, s1) => hardReset ((takeAnswer s1).2.observe (.call p none s.visible))
  | (.quiet, s1) =>
    match takeAnswer s1 with
    | (.answer a, s2) => k a (s2.observe (.call p (some a) s.visible))
    | (.silence, s2) => hang p (s2.observe (.call p none s.visible))

/-- `PollControl()` (R183): sample `CTRL` once; a sample nobody has scripted is a free value (log 15). -/
def pollControl (s : State) : Signal × State :=
  match s.ctrlPort with
  | [] =>
    let ctrl := Config.freeBits 2 s.draws 0
    (signalOf ctrl, s.drawn.observe (.poll ctrl))
  | ctrl :: rest => (signalOf ctrl, { s with ctrlPort := rest }.observe (.poll ctrl))

/-- The payload words presented on the payload port, and the state after they are sampled (R29, R184). -/
def takePayload (s : State) : List Word × State :=
  match s.payloadPort with
  | [] => ([], s)
  | ws :: rest => (ws, { s with payloadPort := rest })

/-- `OUT_REC[k] <- PAYLOAD[k]` for every word of `OUT_REC` (R184); words the sample does not give are free values
(log 15). -/
def loadPayload (s : State) : State :=
  let (ws, s1) := takePayload s
  { s1 with outRec := Region.filled (ws.take s.cfg.outNamedWords) s.draws }.drawn

/-- `Wait(PACING_MS)` (R187): no state changes; a reset can end the command before or during it (R240; log 8). -/
def waitThen (s : State) (k : State → State) : State :=
  match takeReset s with
  | (.quiet, s1) => k (s1.observe (.wait s.cfg.pacingMs))
  | (.before, s1) => hardReset s1
  | (.during, s1) => hardReset (s1.observe (.wait s.cfg.pacingMs))

/-- Emit an event (R182). -/
def emit (e : Event) (s : State) : State := s.observe (.event e)

/-- Emit an event and go on as `k` says, unless a reset comes first (R240). -/
def emitThen (e : Event) (s : State) (k : State → State) : State := orReset s fun s => k (emit e s)

/-- Poll the control signal (R183) and go on as `k` says, unless a reset comes first (R240). -/
def pollThen (s : State) (k : Signal → State → State) : State :=
  orReset s fun s => k (pollControl s).1 (pollControl s).2

/-- The end of every command (R13, R15): respond, unless a reset comes first and the command gives no response
(R240). -/
def endCommand (r : Reply) (s : State) : State := orReset s (respond r)

/-- `RX_AREA[0..487] <- d[0..487]` (R161); bytes the answer does not give are free values (log 5). -/
def storeRx (d : List Byte) (s : State) : State :=
  { s with rxArea := Region.filled (d.take inAreaBytes) s.draws }.drawn

/-- `RX_AREA <- unspecified` (R161). -/
def voidRx (s : State) : State := { s with rxArea := Region.unspecified 8 s.draws }.drawn

/-- `RB_BUF[0..243] <- d[0..243]` (R164). -/
def storeRb (d : List Byte) (s : State) : State :=
  { s with rbBuf := Region.filled (d.take outAreaBytes) s.draws }.drawn

/-- `RB_BUF <- unspecified` (R164). -/
def voidRb (s : State) : State := { s with rbBuf := Region.unspecified 8 s.draws }.drawn

/-- `IN_REC[0..121] <- rec` and `IN_VALID <- 1` (R122). -/
def storeIn (ws : List Word) (s : State) : State :=
  { s with inRec := Region.filled ws s.draws, inValid := true }.drawn

/-- `IN_VALID <- 0`, and `IN_REC` is unspecified from then on (R24, R122, R161). -/
def voidIn (s : State) : State :=
  { s with inRec := Region.unspecified 16 s.draws, inValid := false }.drawn

/-- `TX_BUF[0..243] <- buf` and `TX_VALID <- 1` (R126). -/
def storeTx (bs : List Byte) (s : State) : State :=
  { s with txBuf := Region.filled bs s.draws, txValid := true }.drawn

/-- `TX_VALID <- 0` (R126, R164). -/
def consumeTx (s : State) : State := { s with txValid := false }

/-- `RB_CODE <- c` (R164). -/
def noteRbCode (c : Word32) (s : State) : State := { s with rbCode := c }

/-- `STATE <- x` (R12). -/
def moveTo (x : Session) (s : State) : State := { s with sess := x }

/-- `if STATE = BusOn then STATE <- Active` (R162). -/
def enterActive (s : State) : State := if s.sess = .busOn then moveTo .active s else s

/-- `DRV_VALID <- 0 ; DRV_H <- NULL_HANDLE` (R143). -/
def dropDrv (s : State) : State := { s with drvValid := false, drvH := s.cfg.nullHandle }

/-- `CH_VALID <- 0 ; CH_H <- NULL_HANDLE` (R143). -/
def dropCh (s : State) : State := { s with chValid := false, chH := s.cfg.nullHandle }

/-- The second line of `Release()` (R143): `DrvClose(DRV_H)` if a driver handle is held. -/
def releaseDrvThen (s : State) (k : State → State) : State :=
  if s.drvValid then callThen (.drvClose s.drvH) s fun _ s => k (dropDrv s) else k s

/-- `Release()` (R143): the channel handle first, then the driver handle, each if it is held. -/
def releaseThen (s : State) (k : State → State) : State :=
  if s.chValid then callThen (.chClose s.chH) s fun _ s => releaseDrvThen (dropCh s) k
  else releaseDrvThen s k

end Sys2Proof.Machine
end

