-- ==== Sys2Proof/Machine/Codec.lean ====
section
/-! DEFINITION. The codec commands DECODE and ENCODE (R120 to R129). -/

namespace Sys2Proof.Machine

/-- `Decode(buf, len)` (R121): `none` is `SizeMismatch`. -/
def decodeRecord (bo : ByteOrder) (buf : Memory) (len : Nat) : Option (List Word) :=
  if len < recBytes then none else some ((List.range recWords).map (Region.word bo buf))

/-- Byte `i` of an encoded record (R125): the named words in order, then pad bytes. -/
def encodedByte (c : Config) (rec : RegFile) (i : Nat) : Byte :=
  if i < c.outNamedBytes then byteOf c.byteOrder (rec.read (i / 2)) (i % 2 == 1) else c.padByte

/-- `Encode(rec)` (R125): `none` is `BufferOverflow`. -/
def encodeRecord (c : Config) (rec : RegFile) : Option (List Byte) :=
  if recBytes < c.outNamedBytes then none else some ((List.range recBytes).map (encodedByte c rec))

/-- DECODE (R122) up to its response. -/
def decodeBody (len : Nat) (s : State) : Reply × State :=
  if inAreaBytes < len then (Reply.refused, s)
  else
    match decodeRecord s.cfg.byteOrder s.rxArea len with
    | none => ({ status := .sizeMismatch }, voidIn s)
    | some ws => ({}, storeIn ws s)

/-- ENCODE (R126) up to its response. -/
def encodeBody (s : State) : Reply × State :=
  match encodeRecord s.cfg s.outRec with
  | none => ({ status := .bufferOverflow }, consumeTx s)
  | some bs => ({}, storeTx bs s)

/-- DECODE (R122): legal in every `STATE`, calls no primitive. -/
def execDecode (len : Word32) (s : State) : Host.Outcome State Fault Refusal :=
  .next (endCommand (decodeBody len.toNat s.begin).1 (decodeBody len.toNat s.begin).2)

/-- ENCODE (R126): legal in every `STATE`, calls no primitive. -/
def execEncode (s : State) : Host.Outcome State Fault Refusal :=
  .next (endCommand (encodeBody s.begin).1 (encodeBody s.begin).2)

end Sys2Proof.Machine
end

