-- ==== Sys2Proof/Machine/Lifecycle.lean ====
section
/-! DEFINITION. The session lifecycle commands OPEN, NEGOTIATE and CLOSE (R140 to R152). -/

namespace Sys2Proof.Machine

/-- The handle an answer carries: `HANDLE_BITS` bits (R9, R14; log 13). -/
def Answer.handle (c : Config) (a : Answer) : Handle := a.h % 2 ^ c.handleBits

/-- An open primitive gave no handle: not ok, or the null handle (R141). -/
def Answer.noHandle (c : Config) (a : Answer) : Bool := !a.ok || a.handle c == c.nullHandle

/-- `DRV_H <- h ; DRV_VALID <- 1` (R141). -/
def holdDrv (h : Handle) (s : State) : State := { s with drvH := h, drvValid := true }

/-- `CH_H <- h ; CH_VALID <- 1 ; STATE <- Opened` (R141). -/
def holdCh (h : Handle) (s : State) : State := { s with chH := h, chValid := true, sess := .opened }

/-- OPEN (R141) from the point where the driver handle is held. -/
def openChannel (s : State) (k : Reply → State → State) : State :=
  callThen (.chOpen s.drvH s.boardName s.cfg.channelIndex) s fun a s =>
    if a.noHandle s.cfg then
      callThen (.drvClose s.drvH) s fun _ s =>
        k { status := .openFailed, phase := .second, code := a.code } (dropDrv s)
    else k {} (holdCh (a.handle s.cfg) s)

/-- OPEN (R141) up to its response. -/
def openBody (s : State) (k : Reply → State → State) : State :=
  if s.sess = .closed then
    callThen .drvOpen s fun a s =>
      if a.noHandle s.cfg then k { status := .openFailed, phase := .first, code := a.code } s
      else openChannel (holdDrv (a.handle s.cfg) s) k
  else k Reply.refused s

/-- A failed NEGOTIATE (R144): release the handles, `STATE <- Closed`. -/
def negotiationFails (ph : Phase) (code : Word32) (s : State) (k : Reply → State → State) : State :=
  releaseThen s fun s =>
    k { status := .negotiationFailed, phase := ph, code := code } (moveTo .closed s)

/-- NEGOTIATE (R144) up to its response. -/
def negotiateBody (s : State) (k : Reply → State → State) : State :=
  if s.sess = .opened then
    callThen (.setHostState s.chH s.cfg.hostStateReady s.cfg.negotiateTimeoutMs) s fun a s =>
      if a.code ≠ s.cfg.rcOk then negotiationFails .first a.code s k
      else
        let s := moveTo .hostReady s
        callThen (.setBusState s.chH s.cfg.busStateOn s.cfg.negotiateTimeoutMs) s fun a s =>
          if a.code ≠ s.cfg.rcOk then negotiationFails .second a.code s k
          else k {} (moveTo .busOn s)
  else k Reply.refused s

/-- CLOSE (R148) up to its response. -/
def closeBody (s : State) (k : Reply → State → State) : State :=
  releaseThen s fun s => k {} (moveTo .closed s)

/-- OPEN (R141, R142). -/
def execOpen (s : State) : Host.Outcome State Fault Refusal := .next (openBody s.begin endCommand)

/-- NEGOTIATE (R144, R145). -/
def execNegotiate (s : State) : Host.Outcome State Fault Refusal := .next (negotiateBody s.begin endCommand)

/-- CLOSE (R148, R149): legal in every `STATE`. -/
def execClose (s : State) : Host.Outcome State Fault Refusal := .next (closeBody s.begin endCommand)

end Sys2Proof.Machine
end

