-- ==== Sys2Proof/Machine/SessionIO.lean ====
section
/-! DEFINITION. The session I/O commands READ and WRITE (R160 to R167). -/

namespace Sys2Proof.Machine

/-- READ (R161) up to its response. With `IN_VALID` cleared the words of `IN_REC` are unspecified (R24, R248). -/
def readBody (t : Word32) (s : State) (k : Reply → State → State) : State :=
  if s.ready then
    let s := voidIn s
    callThen (.chRead s.chH s.cfg.areaIndex s.cfg.areaOffset inAreaBytes t) s fun a s =>
      if a.code ≠ s.cfg.rcOk then k { status := .readFailed, code := a.code } (voidRx s)
      else k {} (enterActive (storeRx a.data s))
  else k Reply.refused s

/-- `VerifyEqual(rb, tx)` (R166): the two state words agree. -/
def verifyEqual (bo : ByteOrder) (rb tx : Memory) : Bool :=
  Region.word bo rb 0 == Region.word bo tx 0 && Region.word bo rb 1 == Region.word bo tx 1

/-- The read-back of WRITE with `V` = 1 (R164), after a successful `ChWrite`. -/
def readBackThen (t : Word32) (s : State) (k : Reply → State → State) : State :=
  callThen (.chReadBack s.chH s.cfg.areaIndex s.cfg.areaOffset outAreaBytes t) s fun a s =>
    if a.code ≠ s.cfg.rcOk then
      k { verify := .readBackFailed, rbCode := a.code } (voidRb (noteRbCode a.code s))
    else
      let s := storeRb a.data s
      k { verify := if verifyEqual s.cfg.byteOrder s.rbBuf s.txBuf then .isMatch else .mismatch } s

/-- WRITE (R164) up to its response. `TX_VALID` drops as soon as `ChWrite` is issued, whatever its answer (R26 with D20;
DEDUCED, log 30: R164 writes that line after the call), so it reads 0 while the call is outstanding or is never
answered. -/
def writeBody (v : Bool) (t : Word32) (s : State) (k : Reply → State → State) : State :=
  if s.ready && s.txValid then
    callThen (.chWrite s.chH s.cfg.areaIndex s.cfg.areaOffset outAreaBytes s.txBytes t) (consumeTx s) fun a s =>
      if a.code ≠ s.cfg.rcOk then k { status := .writeFailed, code := a.code } s
      else if v then readBackThen t (enterActive s) k
      else k {} (enterActive s)
  else k Reply.refused s

/-- READ (R161, R163). -/
def execRead (t : Word32) (s : State) : Host.Outcome State Fault Refusal := .next (readBody t s.begin endCommand)

/-- WRITE and WRITE.V (R164, R165). -/
def execWrite (v : Bool) (t : Word32) (s : State) : Host.Outcome State Fault Refusal :=
  .next (writeBody v t s.begin endCommand)

end Sys2Proof.Machine
end

