-- ==== Sys2Proof/Machine/Sequencer.lean ====
section
/-! DEFINITION. The exchange sequencer commands TICK and RUN (R180 to R191). -/

namespace Sys2Proof.Machine

/-- Step 1 of a tick after its READ replied `r` (R185): decode and hand the record over, or warn. -/
def tickDecode (r : Reply) (s : State) (k : State → State) : State :=
  if r.status = .ok then
    let (d, s) := decodeBody inAreaBytes s
    if d.status = .ok then emitThen (.consumer s.inWords) s k else emitThen (.warn d.status .none 0#32) s k
  else emitThen (.warn .readFailed .none r.code) s k

/-- Step 3 of a tick and its response (R185). -/
def tickWait (vr : Verify) (rbc : Word32) (s : State) (k : Reply → State → State) : State :=
  waitThen s (k { verify := vr, rbCode := rbc })

/-- The `WriteNow` branch of step 2 (R185), then step 3. -/
def tickWrite (t : Word32) (s : State) (k : Reply → State → State) : State :=
  let (e, s) := encodeBody (loadPayload s)
  if e.status ≠ .ok then emitThen (.warn .bufferOverflow .none 0#32) s fun s => tickWait .notDone 0#32 s k
  else
    writeBody true t s fun w s =>
      if w.status ≠ .ok then emitThen (.warn .writeFailed .none w.code) s fun s => tickWait .notDone 0#32 s k
      else emitThen (.verify w.verify w.rbCode) s fun s => tickWait w.verify w.rbCode s k

/-- Step 2 of a tick (R185): poll once, branch on the signal. -/
def tickPoll (t : Word32) (s : State) (k : Reply → State → State) : State :=
  pollThen s fun sig s =>
    match sig with
    | .terminate => k { term := true } s
    | .writeNow => tickWrite t s k
    | .cont => tickWait .notDone 0#32 s k

/-- TICK (R185) up to its response. -/
def tickBody (t : Word32) (s : State) (k : Reply → State → State) : State :=
  if s.ready then readBody t s fun r s => tickDecode r s fun s => tickPoll t s k
  else k Reply.refused s

/-- The terminal CLOSE of RUN and RUN's response (R188). -/
def runClose (r : Reply) (s : State) : State := closeBody s fun _ s => endCommand r s

/-- One pass of RUN's loop (R188): a tick, then the terminal close if its poll answered `Terminate`; otherwise the loop
goes on, `BUSY` stays 1 and the next tick is the next step (R190; log 7). -/
def runTick (t : Word32) (s : State) : State :=
  tickBody t s fun r s => if r.term then runClose { term := true } s else s

/-- RUN is the running command, with its latched timeout (R191 (f)). -/
def loopOn (t : Word32) (s : State) : State := { s with activity := .runLoop t }

/-- TICK (R185, R186). -/
def execTick (t : Word32) (s : State) : Host.Outcome State Fault Refusal := .next (tickBody t s.begin endCommand)

/-- RUN (R188): accepted, its first tick done; or, when the session is not ready, closed and refused. -/
def execRun (t : Word32) (s : State) : Host.Outcome State Fault Refusal :=
  .next (if s.ready then runTick t (loopOn t s.begin) else runClose Reply.refused s.begin)

end Sys2Proof.Machine
end

