-- ==== Sys2Proof/Machine/HostPort.lean ====
section
/-! DEFINITION. The host's accesses to registers and buffers (R25 to R28, R110, R227, R246). -/

namespace Sys2Proof.Machine

/-- One item of a region of `size` items, zero-extended; `none` if there is no such item. -/
def getItem {w : Nat} (size : Nat) (r : Region w) (i : Nat) : Option HostValue :=
  if i < size then some (.bits ((r.read i).setWidth 32)) else none

/-- One bit, zero-extended. -/
def getBit (b : Bool) : Option HostValue := some (.bits ((BitVec.ofBool b).setWidth 32))

/-- `GET reg` (R110): what the host reads. An unspecified item reads as its free value (R248; log 2). DESIGN CHOICE
(log 31): `BOARD_NAME` can be read back, though R28 gives it as host-written only. DESIGN CHOICE (log 32): `RSP` can be
read as a register, though R103 gives it as the response frame only. -/
def hostGet (c : Config) (v : Visible) : HostReg → Option HostValue
  | .sess => some (.bits (v.sess.code.setWidth 32))
  | .drvValid => getBit v.drvValid
  | .chValid => getBit v.chValid
  | .busy => getBit v.busy
  | .inRec k => getItem recWords v.inRec k
  | .inValid => getBit v.inValid
  | .outRec k => getItem c.outNamedWords v.outRec k
  | .rxArea i => getItem inAreaBytes v.rxArea i
  | .txBuf i => getItem recBytes v.txBuf i
  | .txValid => getBit v.txValid
  | .rbBuf i => getItem outAreaBytes v.rbBuf i
  | .lastStatus => some (.bits (v.lastStatus.code.setWidth 32))
  | .lastPhase => some (.bits (v.lastPhase.code.setWidth 32))
  | .lastCode => some (.bits v.lastCode)
  | .lastVerify => some (.bits (v.lastVerify.code.setWidth 32))
  | .rbCode => some (.bits v.rbCode)
  | .lastTerm => getBit v.lastTerm
  | .rsp => some (.bits v.rsp)
  | .cmd => some (.bits v.cmd)
  | .arg => some (.bits v.arg)
  | .boardName => some (.bytes v.boardName)

/-- A host read (R227): no register changes; the value read is part of the history. -/
def hostRead (r : HostReg) (s : State) : Host.Outcome State Fault Refusal :=
  match hostGet s.cfg s.visible r with
  | some v => .next (s.observe (.got r v))
  | none => .fault .noSuchLocation

/-- `SET OUT_REC[k] = v` (R25, R110). -/
def hostSetOut (k : Nat) (v : Word) (s : State) : Host.Outcome State Fault Refusal :=
  if k < s.cfg.outNamedWords then .next { s with outRec := s.outRec.write k v } else .fault .noSuchLocation

/-- `SET RX_AREA[i] = b` (R26, R110). -/
def hostSetRx (i : Nat) (b : Byte) (s : State) : Host.Outcome State Fault Refusal :=
  if i < inAreaBytes then .next { s with rxArea := s.rxArea.write i b } else .fault .noSuchLocation

/-- A write of `BOARD_NAME` (R28): 0 to `BOARD_NAME_MAX` bytes. -/
def hostSetName (name : List Byte) (s : State) : Host.Outcome State Fault Refusal :=
  if name.length ≤ s.cfg.boardNameMax then .next { s with boardName := name } else .fault .boardNameTooLong

/-- The command in the operand registers, as the decoder reads it (R28, R101). -/
def fetch (s : State) : Except DecodeError Instr := decodeFrame { cmd := s.cmd, arg := s.arg }

/-- The response to a frame that is not legal (R209): nothing changes but the response registers. -/
def illegalCommand (s : State) : State := endCommand { status := .illegalCommand } s.begin

end Sys2Proof.Machine
end

