-- ==== Sys2Proof/Machine/Dispatch.lean ====
section
/-! DEFINITION. The meaning of each command. -/

namespace Sys2Proof.Machine

def exec (i : Instr) (s : State) : Host.Outcome State Fault Refusal :=
  match i with
  | .decode len => Sys2Proof.Machine.execDecode len s
  | .encode => Sys2Proof.Machine.execEncode s
  | .openCh => Sys2Proof.Machine.execOpen s
  | .negotiate => Sys2Proof.Machine.execNegotiate s
  | .close => Sys2Proof.Machine.execClose s
  | .read t => Sys2Proof.Machine.execRead t s
  | .write v t => Sys2Proof.Machine.execWrite v t s
  | .tick t => Sys2Proof.Machine.execTick t s
  | .run t => Sys2Proof.Machine.execRun t s

end Sys2Proof.Machine
end

