-- ==== Sys2Proof/Machine/Accept.lean ====
section
/-! DEFINITION. What one step does: take one action of the host, or go on with what runs (R15, R190, R245, R246). -/

namespace Sys2Proof.Machine

/-- The presented frame is accepted (R15): its command is executed, or it is answered `IllegalCommand` (R101). -/
def accept (s : State) : Host.Outcome State Fault Refusal :=
  match fetch s with
  | .ok i => exec i s
  | .error _ => .next (illegalCommand s)

/-- The block goes on by itself: an idle block waits for a command (R214), RUN makes its next tick (R188), a command
without an answer stays where it is (R249). -/
def advance (s : State) : State :=
  match s.activity with
  | .idle => s
  | .runLoop t => runTick t s
  | .hung _ => s

/-- A host action while `BUSY` = 0 (R25 to R28, R227, R240). -/
def hostIdle (a : HostAction) (s : State) : Host.Outcome State Fault Refusal :=
  match a with
  | .setCmd v => .next { s with cmd := v }
  | .setArg v => .next { s with arg := v }
  | .setBoardName name => hostSetName name s
  | .setOutRec k v => hostSetOut k v s
  | .setRxArea i b => hostSetRx i b s
  | .get r => hostRead r s
  | .present => accept s
  | .wait => .next (advance s)
  | .reset => .next (hardReset s)

/-- A host action while `BUSY` = 1: a write is dropped (R246), a frame is not accepted and not remembered (R245), a
read gives what the registers hold (R15, R227), a reset ends all (R240). DESIGN CHOICE (log 10): the running command goes on
only when the host waits, so that any number of accesses can fall between two ticks. -/
def hostBusy (a : HostAction) (s : State) : Host.Outcome State Fault Refusal :=
  match a with
  | .setCmd _ => .next s
  | .setArg _ => .next s
  | .setBoardName _ => .next s
  | .setOutRec _ _ => .next s
  | .setRxArea _ _ => .next s
  | .get r => hostRead r s
  | .present => .next s
  | .wait => .next (advance s)
  | .reset => .next (hardReset s)

/-- The block meets the next action of the host. -/
def hostTurn (a : HostAction) (s : State) : Host.Outcome State Fault Refusal :=
  if s.busy then hostBusy a s else hostIdle a s

end Sys2Proof.Machine
end

