-- ==== Sys2Proof/Machine/Step.lean ====
section
/-! DEFINITION. The step, and how the host's check places a command where the next step takes it. -/

namespace Sys2Proof.Machine

/-- One step: the next action of the host if there is one, else the block goes on by itself (log 1, 10, 18). -/
def step (s : State) : Host.Outcome State Fault Refusal :=
  match s.hostPort with
  | [] => .next (advance s)
  | a :: rest => hostTurn a { s with hostPort := rest }

/-- The frame whose bits are `w` in the operand registers of an idle block, presented as the host's next action
(R15, R28; log 1). -/
def State.withFetchWord (s : State) (nbits w : Nat) : State :=
  { s with
    cmd := (frameOfTableWord nbits w).cmd, arg := (frameOfTableWord nbits w).arg,
    busy := false, activity := .idle, hostPort := .present :: s.hostPort }

end Sys2Proof.Machine
end

