-- ==== Sys2Proof/Safety.lean ====
section
/-! DEFINITION. What a safe run is: the session and its handles fit together (R22), every held handle is closed at most
once (R149 (e)), a run can end clean (R251). -/

namespace Sys2Proof.Machine

/-- No handle is held. -/
def State.noHandles (s : State) : Bool := !s.drvValid && !s.chValid

/-- Both handles are held, and neither is the null handle (R22). -/
def State.bothHandles (s : State) : Bool :=
  s.drvValid && s.chValid && s.drvH != s.cfg.nullHandle && s.chH != s.cfg.nullHandle

/-- R22 as it stands for `BUSY` = 0: `Closed` without a handle, or one of `Opened`, `BusOn`, `Active` with both. -/
def State.sessionFits (s : State) : Bool :=
  match s.sess with
  | .closed => s.noHandles
  | .opened => s.bothHandles
  | .hostReady => false
  | .busOn => s.bothHandles
  | .active => s.bothHandles

/-- The session invariant between two steps: `BUSY` says whether a command runs (R23), R22 holds when none does, and
RUN is between two ticks only in a ready session (R188). -/
def State.sessionInv (s : State) : Bool :=
  match s.activity with
  | .idle => !s.busy && s.sessionFits
  | .runLoop _ => s.busy && s.ready && s.bothHandles
  | .hung _ => s.busy

/-- Every register file and buffer has its canonical form and its size (R24 to R26), and the board name fits its
register (R28), the handles theirs (R21). -/
def State.dataInv (s : State) : Bool :=
  s.inRec.wf recWords && s.outRec.wf s.cfg.outNamedWords && s.rxArea.wf inAreaBytes && s.txBuf.wf recBytes &&
    s.rbBuf.wf outAreaBytes && decide (s.boardName.length ≤ s.cfg.boardNameMax) && s.cfg.handleOk &&
    decide (s.drvH < 2 ^ s.cfg.handleBits) && decide (s.chH < 2 ^ s.cfg.handleBits)

/-- Channel handle `h` was acquired by this history entry (R141). -/
def Obs.acquiresCh (c : Config) (h : Handle) : Obs → Bool
  | .call (.chOpen _ _ _) (some a) _ => !a.noHandle c && a.handle c == h
  | _ => false

/-- `ChClose(h)` was issued by this history entry. -/
def Obs.closesCh (h : Handle) : Obs → Bool
  | .call (.chClose g) _ _ => g == h
  | _ => false

/-- Driver handle `h` was acquired by this history entry (R141). -/
def Obs.acquiresDrv (c : Config) (h : Handle) : Obs → Bool
  | .call .drvOpen (some a) _ => !a.noHandle c && a.handle c == h
  | _ => false

/-- `DrvClose(h)` was issued by this history entry. -/
def Obs.closesDrv (h : Handle) : Obs → Bool
  | .call (.drvClose g) _ _ => g == h
  | _ => false

/-- How often channel handle `h` was acquired (R149 (e)). -/
def State.chAcquired (s : State) (h : Handle) : Nat := s.history.countP (Obs.acquiresCh s.cfg h)

/-- How often `ChClose(h)` was issued (R149 (e)). -/
def State.chClosed (s : State) (h : Handle) : Nat := s.history.countP (Obs.closesCh h)

/-- How often driver handle `h` was acquired (R149 (e)). -/
def State.drvAcquired (s : State) (h : Handle) : Nat := s.history.countP (Obs.acquiresDrv s.cfg h)

/-- How often `DrvClose(h)` was issued (R149 (e)). -/
def State.drvClosed (s : State) (h : Handle) : Nat := s.history.countP (Obs.closesDrv h)

/-- Channel handle `h` is held and its close has not been issued: 1 or 0. -/
def State.chHeld (s : State) (h : Handle) : Nat :=
  if s.chValid ∧ s.chH = h ∧ s.activity ≠ .hung (.chClose h) then 1 else 0

/-- Driver handle `h` is held and its close has not been issued: 1 or 0. -/
def State.drvHeld (s : State) (h : Handle) : Nat :=
  if s.drvValid ∧ s.drvH = h ∧ s.activity ≠ .hung (.drvClose h) then 1 else 0

/-- No handle is closed more often than it was acquired, even after the one now held is closed (R149 (e)). -/
def State.closedAtMostOnce (s : State) : Prop :=
  ∀ h : Handle, s.chClosed h + s.chHeld h ≤ s.chAcquired h ∧ s.drvClosed h + s.drvHeld h ≤ s.drvAcquired h

/-- Every acquired handle is held or has been closed exactly once: nothing leaks (R149 (e), R251). -/
def State.nothingLeaked (s : State) : Prop :=
  ∀ h : Handle, s.chClosed h + s.chHeld h = s.chAcquired h ∧ s.drvClosed h + s.drvHeld h = s.drvAcquired h

/-- No reset has happened (R241: a reset with an open session leaks its handles). -/
def State.neverReset (s : State) : Bool := s.history.all (fun o => o != .reset)

/-- A clean final state (R251): closed, nothing held, and each acquired handle closed exactly once. -/
def State.clean (s : State) : Prop :=
  s.sess = .closed ∧ s.chValid = false ∧ s.drvValid = false ∧
    ∀ h : Handle, s.chClosed h = s.chAcquired h ∧ s.drvClosed h = s.drvAcquired h

/-- The port event is an answer. -/
def PortEvent.isAnswer : PortEvent → Bool
  | .answer _ => true
  | .silence => false

/-- The environment keeps its duties while a command runs: every request is answered (R249 (b)) and no reset comes in
between (R240). -/
def State.cooperative (s : State) : Bool :=
  s.collab.all PortEvent.isAnswer && s.resetLine.all (fun r => r == .quiet)

/-- The state a command leaves when it responds `r` after the observations `obs`: the response registers, the response
frame, `BUSY` = 0 (R13, R27, R103), and nothing else. -/
def State.ended (s : State) (r : Reply) (obs : List Obs) : State :=
  { s with
    lastStatus := r.status, lastPhase := r.phase, lastCode := r.code, lastVerify := r.verify, rbCode := r.rbCode,
    lastTerm := r.term, busy := false, activity := .idle,
    history := s.history ++ obs ++ [.response (rspWord r.status r.phase r.verify s.sess r.term) r.code] }

/-- The response registers hold `r` and no command runs (R15, R27). -/
def State.repliedWith (t : State) (r : Reply) : Prop :=
  t.lastStatus = r.status ∧ t.lastPhase = r.phase ∧ t.lastCode = r.code ∧ t.lastVerify = r.verify ∧
    t.rbCode = r.rbCode ∧ t.lastTerm = r.term ∧ t.busy = false ∧ t.activity = .idle

/-- The handle registers and their valid bits are the same (R21). -/
def State.sameHandles (s t : State) : Prop :=
  t.drvH = s.drvH ∧ t.chH = s.chH ∧ t.drvValid = s.drvValid ∧ t.chValid = s.chValid

/-- The operand registers and the parameters are the same (R28, R30). -/
def State.sameOperands (s t : State) : Prop :=
  t.cmd = s.cmd ∧ t.arg = s.arg ∧ t.boardName = s.boardName ∧ t.cfg = s.cfg

/-- The output side is the same, byte for byte: `OUT_REC`, `TX_BUF`, `TX_VALID`, `RB_BUF` (R25, R26). -/
def State.sameOutput (s t : State) : Prop :=
  (∀ k, t.outRec.read k = s.outRec.read k) ∧ (∀ i, t.txBuf.read i = s.txBuf.read i) ∧ t.txValid = s.txValid ∧
    ∀ i, t.rbBuf.read i = s.rbBuf.read i

/-- The input side is the same, byte for byte: `IN_REC`, `IN_VALID`, `RX_AREA` (R24, R26). -/
def State.sameInput (s t : State) : Prop :=
  (∀ k, t.inRec.read k = s.inRec.read k) ∧ t.inValid = s.inValid ∧ ∀ i, t.rxArea.read i = s.rxArea.read i

/-- The control port and the payload port have not been sampled (R29). -/
def State.samePorts (s t : State) : Prop :=
  t.hostPort = s.hostPort ∧ t.ctrlPort = s.ctrlPort ∧ t.payloadPort = s.payloadPort

/-- Every item of the block's state has its value after reset (R33); an unspecified item has no value in the model. -/
def State.atReset (t : State) : Prop :=
  t.sess = .closed ∧ t.drvValid = false ∧ t.chValid = false ∧ t.drvH = t.cfg.nullHandle ∧ t.chH = t.cfg.nullHandle ∧
    t.busy = false ∧ t.inValid = false ∧ t.txValid = false ∧
    (∀ k, t.inRec.specified k = false) ∧ (∀ k, t.outRec.specified k = false) ∧
    (∀ i, t.rxArea.specified i = false) ∧ (∀ i, t.txBuf.specified i = false) ∧ (∀ i, t.rbBuf.specified i = false) ∧
    t.lastStatus = .ok ∧ t.lastPhase = .none ∧ t.lastVerify = .notDone ∧ t.lastTerm = false ∧ t.lastCode = 0#32 ∧
    t.rbCode = 0#32 ∧ t.cmd = 0#32 ∧ t.arg = 0#32 ∧ t.boardName = [] ∧ t.activity = .idle

/-- A primitive was issued. -/
def Obs.isCall : Obs → Bool
  | .call _ _ _ => true
  | _ => false

/-- A reset happened. -/
def Obs.isReset (o : Obs) : Bool := o == .reset

/-- A response was given. -/
def Obs.isResponse : Obs → Bool
  | .response _ _ => true
  | _ => false

/-- The control signal was polled. -/
def Obs.isPoll : Obs → Bool
  | .poll _ => true
  | _ => false

/-- A primitive that moves bytes was issued (R68). -/
def Obs.isTransfer : Obs → Bool
  | .call (.chRead _ _ _ _ _) _ _ => true
  | .call (.chWrite _ _ _ _ _ _) _ _ => true
  | .call (.chReadBack _ _ _ _ _) _ _ => true
  | _ => false

/-- `getErrorDescription` was called (R225). -/
def Obs.isErrDesc : Obs → Bool
  | .call (.errDesc _) _ _ => true
  | _ => false

/-- A transfer moves a whole area from its place (R63, R68); any other entry passes. -/
def Obs.wholeTransfer (c : Config) : Obs → Bool
  | .call (.chRead _ a o l _) _ _ => a == c.areaIndex && o == c.areaOffset && l == inAreaBytes
  | .call (.chWrite _ a o l d _) _ _ =>
    a == c.areaIndex && o == c.areaOffset && l == outAreaBytes && d.length == outAreaBytes
  | .call (.chReadBack _ a o l _) _ _ => a == c.areaIndex && o == c.areaOffset && l == outAreaBytes
  | _ => true

/-- What step 1 of a tick reports of its read, whose answer was `a` (R182, R185): the record handed over, or the
warning. -/
def State.readReport (t : State) (a : Answer) : Obs :=
  .event (if a.code = t.cfg.rcOk then .consumer t.inWords else .warn .readFailed .none a.code)

/-- How many entries of the history are of the kind `f`. -/
def State.seen (s : State) (f : Obs → Bool) : Nat := s.history.countP f

/-- The moves of `STATE` one command can make (R140); `Closed` can always be reached by a reset (R240). `HostReady` is
left standing only by a command that never ends (R145 (a), R249). -/
def sessionMoves (i : Instr) (a b : Session) (ended wasReset : Bool) : Bool :=
  a == b || (wasReset && b == .closed) ||
    match i with
    | .decode _ => false
    | .encode => false
    | .openCh => a == .closed && b == .opened
    | .negotiate => a == .opened && (b == .busOn || b == .closed || (b == .hostReady && !ended))
    | .close => b == .closed
    | .read _ => a == .busOn && b == .active
    | .write _ _ => a == .busOn && b == .active
    | .tick _ => a == .busOn && b == .active
    | .run _ => b == .closed || (a == .busOn && b == .active)

end Sys2Proof.Machine
end

