-- ==== Sys2Proof/Certificates/Slice0/Obligations.lean ====
section
/-! DEFINITION. The statements for the provers, in the order of `OBLIGATIONS.json`. Every statement quantifies over the
state, hence over the instance `cfg`, over every content of the registers and buffers, free values included, and over
every answer the environment gives (R221). -/

open Sys2Proof Sys2Proof.Machine

/-! ### Frames, decoding, the command port -/

/-- R101: what makes a frame legal, the ten legal words, the choice by `OPC` alone, and the response to every other
frame. -/
def Obligations.LegalFramesAreTheTenWords : Prop :=
  (∀ f : Frame, (∃ i, decodeFrame f = .ok i) ↔
    f.cmd.extractLsb' 9 23 = 0#23 ∧
    f.cmd.extractLsb' 0 8 ∈
      [0x01#8, 0x02#8, 0x10#8, 0x11#8, 0x12#8, 0x20#8, 0x21#8, 0x30#8, 0x31#8] ∧
    (f.cmd.extractLsb' 0 8 ≠ 0x21#8 → f.cmd.getLsbD 8 = false)) ∧
  (∀ f : Frame, (∃ i, decodeFrame f = .ok i) ↔ f.legal = true) ∧
  (∀ (f : Frame) (i : Instr), decodeFrame f = .ok i → i.opc = f.cmd.extractLsb' 0 8) ∧
  (∀ s : State, s.resetLine = [] → ({ cmd := s.cmd, arg := s.arg } : Frame).legal = false →
    accept s = .next (s.ended { status := .illegalCommand } []))

/-- Decoding what a command encodes to gives the command; and a frame that decodes is the encoding of its command in
every bit of `CMD`, and in every bit of `ARG` unless the command ignores `ARG` (R98 to R100, R110). -/
def Obligations.DecodeAndEncodeAgree : Prop :=
  (∀ i : Instr, decodeFrame (encodeInstr i) = .ok i) ∧
  ∀ (f : Frame) (i : Instr), decodeFrame f = .ok i →
    (encodeInstr i).cmd = f.cmd ∧
    ((encodeInstr i).arg = f.arg ∨ i = .encode ∨ i = .openCh ∨ i = .negotiate ∨ i = .close)

/-- The ten legal words of R100 and some illegal ones of V-D2, written out. -/
def Obligations.SampleFramesDecode : Prop :=
  decodeFrame ⟨0x00000001#32, 488#32⟩ = .ok (.decode 488#32) ∧
  decodeFrame ⟨0x00000002#32, 0#32⟩ = .ok .encode ∧
  decodeFrame ⟨0x00000010#32, 0#32⟩ = .ok .openCh ∧
  decodeFrame ⟨0x00000011#32, 0#32⟩ = .ok .negotiate ∧
  decodeFrame ⟨0x00000012#32, 0#32⟩ = .ok .close ∧
  decodeFrame ⟨0x00000020#32, 500#32⟩ = .ok (.read 500#32) ∧
  decodeFrame ⟨0x00000021#32, 500#32⟩ = .ok (.write false 500#32) ∧
  decodeFrame ⟨0x00000121#32, 500#32⟩ = .ok (.write true 500#32) ∧
  decodeFrame ⟨0x00000030#32, 500#32⟩ = .ok (.tick 500#32) ∧
  decodeFrame ⟨0x00000031#32, 500#32⟩ = .ok (.run 500#32) ∧
  decodeFrame ⟨0x00000120#32, 500#32⟩ = .error .strayVerifyFlag ∧
  decodeFrame ⟨0x00000221#32, 500#32⟩ = .error .reservedBits ∧
  decodeFrame ⟨0x00000000#32, 0#32⟩ = .error .unassignedOpcode

/-- A command ends by responding unless a reset comes first; the response frame is made of the response registers and of
`STATE` after the command, at the places R103 gives, with the codes of R103, R20 and R27. -/
def Obligations.ResponseFrameMirrorsRegisters : Prop :=
  (∀ (r : Reply) (s : State),
    (s.resetLine = [] → endCommand r s = respond r s) ∧ respond r s = s.ended r [] ∧
    (respond r s).history = s.history ++ [.response (respond r s).visible.rsp (respond r s).lastCode] ∧
    (respond r s).visible.rsp.extractLsb' 0 8 = (respond r s).lastStatus.code ∧
    (respond r s).visible.rsp.extractLsb' 8 2 = (respond r s).lastPhase.code ∧
    (respond r s).visible.rsp.extractLsb' 10 2 = (respond r s).lastVerify.code ∧
    (respond r s).visible.rsp.extractLsb' 12 3 = (respond r s).sess.code ∧
    (respond r s).visible.rsp.getLsbD 15 = (respond r s).lastTerm ∧
    (respond r s).visible.rsp.extractLsb' 16 16 = 0#16) ∧
  [Status.ok, .openFailed, .negotiationFailed, .readFailed, .writeFailed, .sizeMismatch, .bufferOverflow, .refused,
    .illegalCommand].map Status.code =
      [0x00#8, 0x01#8, 0x02#8, 0x03#8, 0x04#8, 0x05#8, 0x06#8, 0x80#8, 0x81#8] ∧
  [Session.closed, .opened, .hostReady, .busOn, .active].map Session.code = [0#3, 1#3, 2#3, 3#3, 4#3] ∧
  [Phase.none, .first, .second].map Phase.code = [0#2, 1#2, 2#2] ∧
  [Verify.notDone, .isMatch, .mismatch, .readBackFailed].map Verify.code = [0#2, 1#2, 2#2, 3#2]

/-- A frame that is presented to an idle block and decodes to a command is executed by that very step, and the step
adds nothing around it but taking the host's action from the port (R15, R28, R101). -/
def Obligations.StepRunsDecodedCommand : Prop :=
  ∀ (s : State) (rest : List HostAction) (i : Instr),
    s.hostPort = .present :: rest → s.busy = false → decodeFrame ⟨s.cmd, s.arg⟩ = .ok i →
      step s = exec i { s with hostPort := rest }

/-- While `BUSY` = 1 the host's writes and frames have no effect and are not remembered (R245, R246); a host that waits
lets the running command go on, so that any number of accesses can fall between two ticks (the model's choice,
log 10). -/
def Obligations.BusyBlockDropsWritesAndFrames : Prop :=
  (∀ (s : State) (rest : List HostAction) (a : HostAction),
    s.hostPort = a :: rest → s.busy = true → (∀ r, a ≠ .get r) → a ≠ .reset → a ≠ .wait →
      step s = .next { s with hostPort := rest }) ∧
  ∀ (s : State) (rest : List HostAction), s.hostPort = .wait :: rest →
    step s = .next (advance { s with hostPort := rest })

/-- An idle block that the host leaves alone waits for the next command (R214): nothing changes (log 10, 18). -/
def Obligations.IdleBlockWaits : Prop :=
  (∀ s : State, s.hostPort = [] → s.activity = .idle → step s = .next s) ∧
  ∀ (s : State) (rest : List HostAction), s.hostPort = .wait :: rest → s.activity = .idle →
    step s = .next { s with hostPort := rest }

/-- The host's accesses (R24 to R28, R110, R227): a write to an idle block writes what it names and nothing else; a read,
also while `BUSY` = 1, changes no register and reports the number the register, word or byte holds. The model's choices
in it: the accesses arrive one at a time on a port (log 1); a read of an unspecified word or byte reports its free value
and does not stop, where R33 leaves a fault or a free draw open and U9 says fault (log 2); a read is answered while
`BUSY` = 1 and the running command makes no progress by it (log 10); an access to what does not exist faults (log 11);
`BOARD_NAME` can be read (log 31); `RSP` can be read (log 32). -/
def Obligations.HostWritesLand : Prop :=
  (∀ (s : State) (v : Word32), hostTurn (.setCmd v) { s with busy := false } = .next { s with busy := false, cmd := v }) ∧
  (∀ (s : State) (v : Word32), hostTurn (.setArg v) { s with busy := false } = .next { s with busy := false, arg := v }) ∧
  (∀ (s : State) (n : List Byte), s.busy = false →
    (n.length ≤ s.cfg.boardNameMax → hostTurn (.setBoardName n) s = .next { s with boardName := n }) ∧
    (s.cfg.boardNameMax < n.length → hostTurn (.setBoardName n) s = .fault .boardNameTooLong)) ∧
  (∀ (s : State) (k : Nat) (v : Word), s.busy = false →
    (k < s.cfg.outNamedWords →
      ∃ f, hostTurn (.setOutRec k v) s = .next { s with outRec := f } ∧
        ∀ j, f.read j = if j = k then v else s.outRec.read j) ∧
    (s.cfg.outNamedWords ≤ k → hostTurn (.setOutRec k v) s = .fault .noSuchLocation)) ∧
  (∀ (s : State) (i : Nat) (b : Byte), s.busy = false →
    (i < 488 →
      ∃ f, hostTurn (.setRxArea i b) s = .next { s with rxArea := f } ∧
        ∀ j, f.read j = if j = i then b else s.rxArea.read j) ∧
    (488 ≤ i → hostTurn (.setRxArea i b) s = .fault .noSuchLocation)) ∧
  (∀ (s : State) (r : HostReg),
    (∀ x, hostGet s.cfg s.visible r = some x →
      hostTurn (.get r) s = .next { s with history := s.history ++ [.got r x] }) ∧
    (hostGet s.cfg s.visible r = none → hostTurn (.get r) s = .fault .noSuchLocation)) ∧
  ∀ s : State,
    [HostReg.sess, .drvValid, .chValid, .busy, .inValid, .txValid, .lastStatus, .lastPhase, .lastCode, .lastVerify,
      .rbCode, .lastTerm, .cmd, .arg].map (hostGet s.cfg s.visible) =
      [s.sess.code.toNat, s.drvValid.toNat, s.chValid.toNat, s.busy.toNat, s.inValid.toNat, s.txValid.toNat,
        s.lastStatus.code.toNat, s.lastPhase.code.toNat, s.lastCode.toNat, s.lastVerify.code.toNat, s.rbCode.toNat,
        s.lastTerm.toNat, s.cmd.toNat, s.arg.toNat].map (fun n => some (.bits (BitVec.ofNat 32 n))) ∧
    hostGet s.cfg s.visible .boardName = some (.bytes s.boardName) ∧
    hostGet s.cfg s.visible .rsp =
      some (.bits (rspWord s.lastStatus s.lastPhase s.lastVerify s.sess s.lastTerm)) ∧
    (∀ k, hostGet s.cfg s.visible (.inRec k) =
      if k < 122 then some (.bits (BitVec.ofNat 32 (s.inRec.read k).toNat)) else none) ∧
    (∀ k, hostGet s.cfg s.visible (.outRec k) =
      if k < s.cfg.outNamedWords then some (.bits (BitVec.ofNat 32 (s.outRec.read k).toNat)) else none) ∧
    (∀ i, hostGet s.cfg s.visible (.rxArea i) =
      if i < 488 then some (.bits (BitVec.ofNat 32 (s.rxArea.read i).toNat)) else none) ∧
    (∀ i, hostGet s.cfg s.visible (.txBuf i) =
      if i < 244 then some (.bits (BitVec.ofNat 32 (s.txBuf.read i).toNat)) else none) ∧
    ∀ i, hostGet s.cfg s.visible (.rbBuf i) =
      if i < 244 then some (.bits (BitVec.ofNat 32 (s.rbBuf.read i).toNat)) else none

/-- With `little` the byte at the even offset is bits 7 to 0 of its word, with `big` bits 15 to 8 (R11, R65); and a byte
the host writes to `RX_AREA` changes exactly the word it lies in, in that half (R66). -/
def Obligations.HostByteChangesOneWordHalf : Prop :=
  (∀ (m : Memory) (k : Nat),
    (Region.word .little m k).extractLsb' 0 8 = m.read (2 * k) ∧
    (Region.word .little m k).extractLsb' 8 8 = m.read (2 * k + 1) ∧
    (Region.word .big m k).extractLsb' 8 8 = m.read (2 * k) ∧
    (Region.word .big m k).extractLsb' 0 8 = m.read (2 * k + 1)) ∧
  (∀ v : Word,
    byteOf .little v false = v.extractLsb' 0 8 ∧ byteOf .little v true = v.extractLsb' 8 8 ∧
    byteOf .big v false = v.extractLsb' 8 8 ∧ byteOf .big v true = v.extractLsb' 0 8) ∧
  ∀ (bo : ByteOrder) (m : Memory) (k j : Nat) (odd : Bool) (b : Byte),
    (j ≠ k → Region.word bo (m.write (2 * k + odd.toNat) b) j = Region.word bo m j) ∧
    byteOf bo (Region.word bo (m.write (2 * k + odd.toNat) b) k) odd = b ∧
    byteOf bo (Region.word bo (m.write (2 * k + odd.toNat) b) k) (!odd) = byteOf bo (Region.word bo m k) (!odd)

/-! ### Reset -/

/-- The value of every piece of state after reset (R33). -/
def Obligations.ResetStateValues : Prop :=
  State.reset.atReset ∧ State.reset.cfg.nullHandle = 0

/-- A reset clears the block in any state and closes nothing (R240, R241). -/
def Obligations.ResetClearsBlockAndClosesNothing : Prop :=
  ∀ (s : State) (rest : List HostAction), s.hostPort = .reset :: rest →
    ∃ t, step s = .next t ∧ t.atReset ∧ t.cfg = s.cfg ∧ t.history = s.history ++ [.reset]

/-- A command during which a reset lands is abandoned: it gives no response, the block is at reset and the reset is the
last thing that happened (R240). -/
def Obligations.ResetAbandonsCommand : Prop :=
  ∀ (i : Instr) (s t : State), exec i s = .next t →
    s.seen Obs.isReset < t.seen Obs.isReset →
      t.atReset ∧ t.seen Obs.isResponse = s.seen Obs.isResponse ∧ t.history.getLast? = some .reset

/-! ### The collaborator port -/

/-- A request nobody has scripted an answer for is answered by free values: it is the request with that answer on the
port (the model's choice, log 4; R4, R221). -/
def Obligations.UnscriptedRequestGetsFreeAnswer : Prop :=
  ∀ (p : Primitive) (s : State) (k : Answer → State → State), s.resetLine = [] → s.collab = [] →
    callThen p s k =
      callThen p { s with collab := [.answer (Answer.free s.cfg s.draws)], draws := s.draws + 1 } k

/-- A request that is never answered leaves the block with `BUSY` = 1, and no step without a reset changes that
(R249 (b)). -/
def Obligations.SilenceHangsTheBlock : Prop :=
  (∀ (p : Primitive) (s : State) (k : Answer → State → State) (rest : List PortEvent),
    s.resetLine = [] → s.collab = .silence :: rest →
      callThen p s k =
        { s with collab := rest, activity := .hung p, history := s.history ++ [.call p none s.visible] }) ∧
  ∀ (p : Primitive) (s t : State), s.activity = .hung p → s.busy = true → step s = .next t →
    s.hostPort.head? ≠ some .reset → t.activity = .hung p ∧ t.busy = true ∧ t.sess = s.sess

/-! ### Codec -/

/-- R124: DECODE reproduces every word of the slot; it changes nothing else. -/
def Obligations.DecodeReproducesEveryWord : Prop :=
  ∀ (s : State) (len : Word32), s.resetLine = [] → 244 ≤ len.toNat → len.toNat ≤ 488 →
    ∃ t, exec (.decode len) s = .next t ∧ t.repliedWith {} ∧ t.inValid = true ∧
      (∀ k, k < 122 → t.inRec.read k = Region.word s.cfg.byteOrder s.rxArea k) ∧
      (∀ i, t.rxArea.read i = s.rxArea.read i) ∧ t.sess = s.sess ∧
      s.sameHandles t ∧ s.sameOutput t ∧ s.sameOperands t ∧ s.samePorts t ∧ t.collab = s.collab ∧
      t.history = s.history ++ [.response (rspWord .ok .none .notDone s.sess false) 0#32]

/-- R122, R123 (b), (c), (g): a short buffer is a `SizeMismatch`, and no word of the earlier record is left. -/
def Obligations.DecodeOfShortBufferFails : Prop :=
  ∀ (s : State) (len : Word32), s.resetLine = [] → len.toNat < 244 →
    ∃ t, exec (.decode len) s = .next t ∧ t.repliedWith { status := .sizeMismatch } ∧ t.inValid = false ∧
      (∀ k, t.inRec.specified k = false) ∧
      (∀ i, t.rxArea.read i = s.rxArea.read i) ∧ t.sess = s.sess ∧
      s.sameHandles t ∧ s.sameOutput t ∧ s.sameOperands t ∧ s.samePorts t ∧ t.collab = s.collab ∧
      t.history = s.history ++ [.response (rspWord .sizeMismatch .none .notDone s.sess false) 0#32]

/-- R121: the decoded record is a function of the 244 bytes of the slot alone, and distinct slots give distinct
records. -/
def Obligations.DecodeIsInjectiveOnTheSlot : Prop :=
  ∀ (bo : ByteOrder) (b1 b2 : Memory) (l1 l2 : Nat), 244 ≤ l1 → 244 ≤ l2 →
    (decodeRecord bo b1 l1 = decodeRecord bo b2 l2 ↔ ∀ i, i < 244 → b1.read i = b2.read i)

/-- R125, R126: ENCODE writes the named words in order, two bytes each in `BYTE_ORDER`, and pad bytes after them; it
changes nothing else. -/
def Obligations.EncodeWritesWordsAndPadding : Prop :=
  ∀ s : State, s.resetLine = [] → s.cfg.outNamedBytes ≤ 244 →
    ∃ t, exec .encode s = .next t ∧ t.repliedWith {} ∧ t.txValid = true ∧
      (∀ k, k < s.cfg.outNamedWords →
        t.txBuf.read (2 * k) = byteOf s.cfg.byteOrder (s.outRec.read k) false ∧
        t.txBuf.read (2 * k + 1) = byteOf s.cfg.byteOrder (s.outRec.read k) true) ∧
      (∀ i, s.cfg.outNamedBytes ≤ i → i < 244 → t.txBuf.read i = s.cfg.padByte) ∧
      (∀ k, t.outRec.read k = s.outRec.read k) ∧ (∀ i, t.rbBuf.read i = s.rbBuf.read i) ∧ t.sess = s.sess ∧
      s.sameHandles t ∧ s.sameInput t ∧ s.sameOperands t ∧ s.samePorts t ∧ t.collab = s.collab ∧
      t.history = s.history ++ [.response (rspWord .ok .none .notDone s.sess false) 0#32]

/-- R97, R126, R127 (a): an instance whose record does not fit responds `BufferOverflow`, leaves `TX_BUF`, and a WRITE
after it is refused. -/
def Obligations.EncodeOverflowBlocksTheWrite : Prop :=
  ∀ s : State, s.resetLine = [] → 244 < s.cfg.outNamedBytes →
    exec .encode s = .next ({ s with txValid := false }.ended { status := .bufferOverflow } []) ∧
    ∀ (v : Bool) (t : Word32),
      exec (.write v t) ({ s with txValid := false }.ended { status := .bufferOverflow } []) =
        .next (({ s with txValid := false }.ended { status := .bufferOverflow } []).ended { status := .refused } [])

/-- R128: with the reference parameters, decoding what ENCODE produced gives the 80 words back and zeros after them, in
both byte orders. -/
def Obligations.EncodeThenDecodeRoundTrip : Prop :=
  ∀ (c : Config) (rec : RegFile) (d : Nat), c.nView = 4 → c.seqLen = 8 → c.padByte = 0x00#8 →
    ∃ bs ws, encodeRecord c rec = some bs ∧ bs.length = 244 ∧
      decodeRecord c.byteOrder (Region.filled bs d) 244 = some ws ∧ ws.length = 122 ∧
      (∀ k, k < 80 → ws[k]? = some (rec.read k)) ∧ ∀ k, 80 ≤ k → k < 122 → ws[k]? = some 0#16

/-- R125: distinct records give distinct buffers. -/
def Obligations.EncodeIsInjective : Prop :=
  ∀ (c : Config) (r1 r2 : RegFile), c.outNamedBytes ≤ 244 → encodeRecord c r1 = encodeRecord c r2 →
    ∀ k, k < c.outNamedWords → r1.read k = r2.read k

/-- The named fields lie where R91, R93 and R94 put them, for the reference sizes. -/
def Obligations.NamedFieldsLieAtTheirWords : Prop :=
  (∀ (c : Config) (f : ScalarField),
    InField.index c (.scalar f) = some f.index ∧ OutField.index c (.scalar f) = some f.index) ∧
  (∀ (s : State) (f : InField), s.inField f = (f.index s.cfg).map s.inRec.read) ∧
  (∀ (s : State) (f : OutField), s.outField f = (f.index s.cfg).map s.outRec.read) ∧
  ∀ (c : Config), c.nView = 4 → c.seqLen = 8 →
    (∀ v j, 1 ≤ v → v ≤ 4 → j < 8 →
      InField.index c (.setpoint v j) = some (16 + 8 * (v - 1) + j) ∧
      OutField.index c (.value v j) =
        some (if c.outSeqOrder = .paired then 16 + 16 * (v - 1) + j else 16 + 8 * (v - 1) + j) ∧
      OutField.index c (.valueQuality v j) =
        some (if c.outSeqOrder = .paired then 24 + 16 * (v - 1) + j else 48 + 8 * (v - 1) + j)) ∧
    (∀ j, j < 74 → InField.index c (.tail j) = some (48 + j)) ∧
    [ScalarField.stateBits1, .stateBits2, .year, .month, .day, .hours, .minutes, .seconds, .interval1, .interval2,
      .interval3, .interval4, .reserved13, .reserved14, .reserved15, .reserved16].map ScalarField.index = List.range 16

/-! ### Session lifecycle -/

/-- R141: both primitives give a handle; the session is open. -/
def Obligations.OpenAcquiresBothHandles : Prop :=
  ∀ (s : State) (a b : Answer) (rest : List PortEvent),
    s.sess = .closed → s.resetLine = [] → s.collab = .answer a :: .answer b :: rest →
    a.ok = true → a.handle s.cfg ≠ s.cfg.nullHandle → b.ok = true → b.handle s.cfg ≠ s.cfg.nullHandle →
      exec .openCh s = .next
        ({ s with drvH := a.handle s.cfg, drvValid := true, chH := b.handle s.cfg, chValid := true, sess := .opened,
                  collab := rest }.ended {}
          [.call .drvOpen (some a) { s with busy := true }.visible,
           .call (.chOpen (a.handle s.cfg) s.boardName s.cfg.channelIndex) (some b)
             { s with busy := true, drvH := a.handle s.cfg, drvValid := true }.visible])

/-- R141: no driver handle; `OpenFailed` in phase 1, nothing else is called. -/
def Obligations.OpenFailsWithoutDriverHandle : Prop :=
  ∀ (s : State) (a : Answer) (rest : List PortEvent),
    s.sess = .closed → s.resetLine = [] → s.collab = .answer a :: rest →
    (a.ok = false ∨ a.handle s.cfg = s.cfg.nullHandle) →
      exec .openCh s = .next
        ({ s with collab := rest }.ended { status := .openFailed, phase := .first, code := a.code }
          [.call .drvOpen (some a) { s with busy := true }.visible])

/-- R141, R142 (b): no channel handle; the driver handle is closed, `OpenFailed` in phase 2. That `DRV_VALID` is still 1
while the close is outstanding is the model's reading (log 27). -/
def Obligations.OpenFailsWithoutChannelHandle : Prop :=
  ∀ (s : State) (a b c : Answer) (rest : List PortEvent),
    s.sess = .closed → s.resetLine = [] → s.collab = .answer a :: .answer b :: .answer c :: rest →
    a.ok = true → a.handle s.cfg ≠ s.cfg.nullHandle → (b.ok = false ∨ b.handle s.cfg = s.cfg.nullHandle) →
      exec .openCh s = .next
        ({ s with drvH := s.cfg.nullHandle, drvValid := false, collab := rest }.ended
          { status := .openFailed, phase := .second, code := b.code }
          [.call .drvOpen (some a) { s with busy := true }.visible,
           .call (.chOpen (a.handle s.cfg) s.boardName s.cfg.channelIndex) (some b)
             { s with busy := true, drvH := a.handle s.cfg, drvValid := true }.visible,
           .call (.drvClose (a.handle s.cfg)) (some c)
             { s with busy := true, drvH := a.handle s.cfg, drvValid := true }.visible])

/-- R208: a command whose precondition on `STATE`, on `TX_VALID` or on `LEN` fails changes nothing but the response
registers, issues no primitive and emits no event; only RUN is left out (R188). -/
def Obligations.RefusedCommandChangesNothing : Prop :=
  ∀ s : State, s.resetLine = [] →
    (s.sess ≠ .closed → exec .openCh s = .next (s.ended { status := .refused } [])) ∧
    (s.sess ≠ .opened → exec .negotiate s = .next (s.ended { status := .refused } [])) ∧
    (∀ t, s.sess ≠ .busOn → s.sess ≠ .active → exec (.read t) s = .next (s.ended { status := .refused } [])) ∧
    (∀ v t, (s.sess ≠ .busOn ∧ s.sess ≠ .active) ∨ s.txValid = false →
      exec (.write v t) s = .next (s.ended { status := .refused } [])) ∧
    (∀ t, s.sess ≠ .busOn → s.sess ≠ .active → exec (.tick t) s = .next (s.ended { status := .refused } [])) ∧
    (∀ len : Word32, 488 < len.toNat → exec (.decode len) s = .next (s.ended { status := .refused } []))

/-- R144, R145 (a): both requests accepted; the bus is on, and `HostReady` was seen between the two calls. -/
def Obligations.NegotiateReachesBusOn : Prop :=
  ∀ (s : State) (a b : Answer) (rest : List PortEvent),
    s.sess = .opened → s.resetLine = [] → s.collab = .answer a :: .answer b :: rest →
    a.code = s.cfg.rcOk → b.code = s.cfg.rcOk →
      exec .negotiate s = .next
        ({ s with sess := .busOn, collab := rest }.ended {}
          [.call (.setHostState s.chH s.cfg.hostStateReady s.cfg.negotiateTimeoutMs) (some a)
             { s with busy := true }.visible,
           .call (.setBusState s.chH s.cfg.busStateOn s.cfg.negotiateTimeoutMs) (some b)
             { s with busy := true, sess := .hostReady }.visible])

/-- R144, R145 (c), (e): the host phase fails; both handles are closed, the bus is never asked for.
That the valid bits are still 1 while each close is outstanding is the model's reading (log 27). -/
def Obligations.NegotiateFailsInHostPhase : Prop :=
  ∀ (s : State) (a b c : Answer) (rest : List PortEvent),
    s.sess = .opened → s.resetLine = [] → s.collab = .answer a :: .answer b :: .answer c :: rest →
    s.chValid = true → s.drvValid = true → a.code ≠ s.cfg.rcOk →
      exec .negotiate s = .next
        ({ s with sess := .closed, chValid := false, chH := s.cfg.nullHandle, drvValid := false,
                  drvH := s.cfg.nullHandle, collab := rest }.ended
          { status := .negotiationFailed, phase := .first, code := a.code }
          [.call (.setHostState s.chH s.cfg.hostStateReady s.cfg.negotiateTimeoutMs) (some a)
             { s with busy := true }.visible,
           .call (.chClose s.chH) (some b) { s with busy := true }.visible,
           .call (.drvClose s.drvH) (some c) { s with busy := true, chValid := false }.visible])

/-- R144, R145 (e): the bus phase fails; both handles are closed. That the valid bits are still 1 while each close is
outstanding is the model's reading (log 27). -/
def Obligations.NegotiateFailsInBusPhase : Prop :=
  ∀ (s : State) (a b c d : Answer) (rest : List PortEvent),
    s.sess = .opened → s.resetLine = [] →
    s.collab = .answer a :: .answer b :: .answer c :: .answer d :: rest →
    s.chValid = true → s.drvValid = true → a.code = s.cfg.rcOk → b.code ≠ s.cfg.rcOk →
      exec .negotiate s = .next
        ({ s with sess := .closed, chValid := false, chH := s.cfg.nullHandle, drvValid := false,
                  drvH := s.cfg.nullHandle, collab := rest }.ended
          { status := .negotiationFailed, phase := .second, code := b.code }
          [.call (.setHostState s.chH s.cfg.hostStateReady s.cfg.negotiateTimeoutMs) (some a)
             { s with busy := true }.visible,
           .call (.setBusState s.chH s.cfg.busStateOn s.cfg.negotiateTimeoutMs) (some b)
             { s with busy := true, sess := .hostReady }.visible,
           .call (.chClose s.chH) (some c) { s with busy := true, sess := .hostReady }.visible,
           .call (.drvClose s.drvH) (some d) { s with busy := true, sess := .hostReady, chValid := false }.visible])

/-- R148: with both handles held CLOSE closes the channel, then the driver. That the valid bits are still 1 while each
close is outstanding is the model's reading (log 27). -/
def Obligations.CloseReleasesChannelThenDriver : Prop :=
  ∀ (s : State) (a b : Answer) (rest : List PortEvent),
    s.resetLine = [] → s.collab = .answer a :: .answer b :: rest → s.chValid = true → s.drvValid = true →
      exec .close s = .next
        ({ s with sess := .closed, chValid := false, chH := s.cfg.nullHandle, drvValid := false,
                  drvH := s.cfg.nullHandle, collab := rest }.ended {}
          [.call (.chClose s.chH) (some a) { s with busy := true }.visible,
           .call (.drvClose s.drvH) (some b) { s with busy := true, chValid := false }.visible])

/-- R148, R149: CLOSE responds `Ok` and leaves the session closed with no handle held, from any state, whatever the
answers are; it leaves the codec state; and with no handle held it issues no primitive. -/
def Obligations.CloseAlwaysEndsClosed : Prop :=
  ∀ s : State, s.cooperative = true →
    ∃ t, exec .close s = .next t ∧ t.sess = .closed ∧ t.chValid = false ∧ t.drvValid = false ∧ t.repliedWith {} ∧
      s.sameInput t ∧ s.sameOutput t ∧ s.sameOperands t ∧ s.samePorts t ∧
      (s.chValid = false → s.drvValid = false →
        t.history = s.history ++ [.response (rspWord .ok .none .notDone .closed false) 0#32])

/-- R146: whatever the command and the answers, `BusOn` is entered only by a NEGOTIATE in `Opened` whose two requests
were both accepted; and a NEGOTIATE that does not enter it ends in `Closed` with the handles released. -/
def Obligations.BusOnOnlyAfterBothPhasesSucceed : Prop :=
  (∀ (i : Instr) (s t : State), exec i s = .next t → s.sess ≠ .busOn → t.sess = .busOn →
    i = .negotiate ∧ s.sess = .opened ∧
      ∃ (a b : Answer) (v w : Visible) (r : Obs), a.code = s.cfg.rcOk ∧ b.code = s.cfg.rcOk ∧
        t.history = s.history ++
          [.call (.setHostState s.chH s.cfg.hostStateReady s.cfg.negotiateTimeoutMs) (some a) v,
           .call (.setBusState s.chH s.cfg.busStateOn s.cfg.negotiateTimeoutMs) (some b) w, r]) ∧
  ∀ s t : State, s.cooperative = true → s.sess = .opened → exec .negotiate s = .next t →
    t.sess = .busOn ∨
      (t.sess = .closed ∧ t.chValid = false ∧ t.drvValid = false ∧ t.lastStatus = .negotiationFailed)

/-- R140: the only moves of `STATE` a command makes; a move to `Closed` that R140 does not give the command needs a reset
in the history (R240). -/
def Obligations.SessionMovesOnlyAsListed : Prop :=
  ∀ (i : Instr) (s t : State), exec i s = .next t →
    sessionMoves i s.sess t.sess (t.activity == .idle) (decide (s.seen Obs.isReset < t.seen Obs.isReset)) = true

/-! ### Session I/O -/

/-- R161, R162: a successful READ fills `RX_AREA` with the answer's bytes, invalidates the record, enters `Active`. -/
def Obligations.ReadFillsTheInputArea : Prop :=
  ∀ (s : State) (tm : Word32) (a : Answer) (rest : List PortEvent),
    s.sess = .busOn ∨ s.sess = .active → s.resetLine = [] → s.collab = .answer a :: rest → a.code = s.cfg.rcOk →
      ∃ t v, exec (.read tm) s = .next t ∧ t.repliedWith {} ∧ t.sess = .active ∧ t.inValid = false ∧
        (∀ i b, i < 488 → a.data[i]? = some b → t.rxArea.read i = b) ∧
        s.sameHandles t ∧ s.sameOutput t ∧ s.sameOperands t ∧ s.samePorts t ∧ t.collab = rest ∧
        t.history = s.history ++
          [.call (.chRead s.chH s.cfg.areaIndex s.cfg.areaOffset 488 tm) (some a) v,
           .response (rspWord .ok .none .notDone .active false) 0#32]

/-- R167: a failed READ alters neither the session state nor the handles and closes nothing. -/
def Obligations.FailedReadKeepsTheSession : Prop :=
  ∀ (s : State) (tm : Word32) (a : Answer) (rest : List PortEvent),
    s.sess = .busOn ∨ s.sess = .active → s.resetLine = [] → s.collab = .answer a :: rest → a.code ≠ s.cfg.rcOk →
      ∃ t v, exec (.read tm) s = .next t ∧ t.repliedWith { status := .readFailed, code := a.code } ∧
        t.sess = s.sess ∧ s.sameHandles t ∧ t.inValid = false ∧ (∀ i, t.rxArea.specified i = false) ∧
        s.sameOutput t ∧ s.sameOperands t ∧ s.samePorts t ∧ t.collab = rest ∧
        t.history = s.history ++
          [.call (.chRead s.chH s.cfg.areaIndex s.cfg.areaOffset 488 tm) (some a) v,
           .response (rspWord .readFailed .none .notDone s.sess false) a.code]

/-- R164: a WRITE without read-back sends the 244 bytes of `TX_BUF`; the encoded record is consumed. That `TX_VALID` is
already 0 while the write is outstanding is the model's reading of R26 (log 30). -/
def Obligations.WriteWithoutReadBack : Prop :=
  ∀ (s : State) (tm : Word32) (a : Answer) (rest : List PortEvent),
    s.sess = .busOn ∨ s.sess = .active → s.txValid = true → s.resetLine = [] → s.collab = .answer a :: rest →
    a.code = s.cfg.rcOk →
      exec (.write false tm) s = .next
        ({ s with txValid := false, sess := .active, collab := rest }.ended {}
          [.call (.chWrite s.chH s.cfg.areaIndex s.cfg.areaOffset 244 ((List.range 244).map s.txBuf.read) tm) (some a)
             { s with busy := true, txValid := false }.visible])

/-- R164, R165 (e), R212: a failed WRITE consumes the record, issues no read-back and leaves the session. That
`TX_VALID` is already 0 while the write is outstanding is the model's reading of R26 (log 30). -/
def Obligations.FailedWriteKeepsTheSession : Prop :=
  ∀ (s : State) (v : Bool) (tm : Word32) (a : Answer) (rest : List PortEvent),
    s.sess = .busOn ∨ s.sess = .active → s.txValid = true → s.resetLine = [] → s.collab = .answer a :: rest →
    a.code ≠ s.cfg.rcOk →
      exec (.write v tm) s = .next
        ({ s with txValid := false, collab := rest }.ended { status := .writeFailed, code := a.code }
          [.call (.chWrite s.chH s.cfg.areaIndex s.cfg.areaOffset 244 ((List.range 244).map s.txBuf.read) tm) (some a)
             { s with busy := true, txValid := false }.visible])

/-- R164, R166: WRITE.V reads the output area back; the result is `Match` exactly if the two state words agree. -/
def Obligations.VerifyComparesTheStateWords : Prop :=
  ∀ (s : State) (tm : Word32) (a b : Answer) (rest : List PortEvent),
    s.sess = .busOn ∨ s.sess = .active → s.txValid = true → s.resetLine = [] →
    s.collab = .answer a :: .answer b :: rest → a.code = s.cfg.rcOk → b.code = s.cfg.rcOk →
      ∃ t v w, exec (.write true tm) s = .next t ∧
        (∀ i x, i < 244 → b.data[i]? = some x → t.rbBuf.read i = x) ∧
        ((Region.word s.cfg.byteOrder t.rbBuf 0 = Region.word s.cfg.byteOrder s.txBuf 0 ∧
            Region.word s.cfg.byteOrder t.rbBuf 1 = Region.word s.cfg.byteOrder s.txBuf 1 →
          t.repliedWith { verify := .isMatch }) ∧
        (¬ (Region.word s.cfg.byteOrder t.rbBuf 0 = Region.word s.cfg.byteOrder s.txBuf 0 ∧
            Region.word s.cfg.byteOrder t.rbBuf 1 = Region.word s.cfg.byteOrder s.txBuf 1) →
          t.repliedWith { verify := .mismatch })) ∧
        t.sess = .active ∧ t.txValid = false ∧ (∀ i, t.txBuf.read i = s.txBuf.read i) ∧
        (∀ k, t.outRec.read k = s.outRec.read k) ∧ s.sameHandles t ∧ s.sameInput t ∧ s.sameOperands t ∧
        s.samePorts t ∧ t.collab = rest ∧
        t.history = s.history ++
          [.call (.chWrite s.chH s.cfg.areaIndex s.cfg.areaOffset 244 ((List.range 244).map s.txBuf.read) tm)
             (some a) v,
           .call (.chReadBack s.chH s.cfg.areaIndex s.cfg.areaOffset 244 tm) (some b) w,
           .response (rspWord .ok .none t.lastVerify .active false) 0#32]

/-- R164: a failed read-back is no error status: `Ok`, `ReadBackFailed`, its code in `RB_CODE`; one `ChWrite` and one
`ChReadBack` were issued. -/
def Obligations.FailedReadBackIsReported : Prop :=
  ∀ (s : State) (tm : Word32) (a b : Answer) (rest : List PortEvent),
    s.sess = .busOn ∨ s.sess = .active → s.txValid = true → s.resetLine = [] →
    s.collab = .answer a :: .answer b :: rest → a.code = s.cfg.rcOk → b.code ≠ s.cfg.rcOk →
      ∃ t v w, exec (.write true tm) s = .next t ∧ t.repliedWith { verify := .readBackFailed, rbCode := b.code } ∧
        t.sess = .active ∧ t.txValid = false ∧ (∀ i, t.rbBuf.specified i = false) ∧
        (∀ i, t.txBuf.read i = s.txBuf.read i) ∧ (∀ k, t.outRec.read k = s.outRec.read k) ∧
        s.sameHandles t ∧ s.sameInput t ∧ s.sameOperands t ∧ s.samePorts t ∧ t.collab = rest ∧
        t.history = s.history ++
          [.call (.chWrite s.chH s.cfg.areaIndex s.cfg.areaOffset 244 ((List.range 244).map s.txBuf.read) tm)
             (some a) v,
           .call (.chReadBack s.chH s.cfg.areaIndex s.cfg.areaOffset 244 tm) (some b) w,
           .response (rspWord .ok .none .readBackFailed .active false) 0#32]

/-- R247: after a WRITE that reached the wire and ended, every further WRITE is refused. -/
def Obligations.EncodedRecordIsUsedOnce : Prop :=
  ∀ (s t : State) (v w : Bool) (tm tn : Word32),
    s.ready = true → s.txValid = true → s.cooperative = true → exec (.write v tm) s = .next t →
      t.txValid = false ∧
        exec (.write w tn) t = .next ({ t with resetLine := t.resetLine.tail }.ended { status := .refused } [])

/-- R160: outside `BusOn` and `Active` no command moves a byte to or from the device. -/
def Obligations.NoTransferOutsideReadySession : Prop :=
  ∀ (i : Instr) (s t : State), s.ready = false → exec i s = .next t →
    t.seen Obs.isTransfer = s.seen Obs.isTransfer

/-! ### Exchange sequencer -/

/-- R185: a tick whose read succeeds and whose poll says `Continue`: the record is decoded and handed over, then the
wait, then `Ok`. -/
def Obligations.TickReadsDecodesAndHandsOver : Prop :=
  ∀ (s : State) (tm : Word32) (a : Answer) (rest : List PortEvent) (c : BitVec 2) (cs : List (BitVec 2)),
    s.sess = .busOn ∨ s.sess = .active → s.resetLine = [] → s.collab = .answer a :: rest → a.code = s.cfg.rcOk →
    s.ctrlPort = c :: cs → c ≠ 1#2 → c ≠ 2#2 →
      ∃ t v, exec (.tick tm) s = .next t ∧ t.repliedWith {} ∧ t.sess = .active ∧ t.inValid = true ∧
        (∀ i b, i < 488 → a.data[i]? = some b → t.rxArea.read i = b) ∧
        (∀ k, k < 122 → t.inRec.read k = Region.word s.cfg.byteOrder t.rxArea k) ∧
        s.sameHandles t ∧ s.sameOutput t ∧ s.sameOperands t ∧ t.hostPort = s.hostPort ∧
        t.payloadPort = s.payloadPort ∧ t.ctrlPort = cs ∧ t.collab = rest ∧
        t.history = s.history ++
          [.call (.chRead s.chH s.cfg.areaIndex s.cfg.areaOffset 488 tm) (some a) v,
           .event (.consumer ((List.range 122).map t.inRec.read)), .poll c, .wait s.cfg.pacingMs,
           .response (rspWord .ok .none .notDone .active false) 0#32]

/-- R185, R186 (b), (g): a tick whose read fails and whose poll says `Terminate`: a warning, no wait, `TERM` = 1,
nothing closed. -/
def Obligations.TickWarnsAndTerminates : Prop :=
  ∀ (s : State) (tm : Word32) (a : Answer) (rest : List PortEvent) (cs : List (BitVec 2)),
    s.sess = .busOn ∨ s.sess = .active → s.resetLine = [] → s.collab = .answer a :: rest → a.code ≠ s.cfg.rcOk →
    s.ctrlPort = 2#2 :: cs →
      ∃ t v, exec (.tick tm) s = .next t ∧ t.repliedWith { term := true } ∧ t.sess = s.sess ∧ t.inValid = false ∧
        (∀ i, t.rxArea.specified i = false) ∧
        s.sameHandles t ∧ s.sameOutput t ∧ s.sameOperands t ∧ t.hostPort = s.hostPort ∧
        t.payloadPort = s.payloadPort ∧ t.ctrlPort = cs ∧ t.collab = rest ∧
        t.history = s.history ++
          [.call (.chRead s.chH s.cfg.areaIndex s.cfg.areaOffset 488 tm) (some a) v,
           .event (.warn .readFailed .none a.code), .poll 2#2,
           .response (rspWord .ok .none .notDone s.sess true) 0#32]

/-- R184, R185, R186 (a): a tick on `WriteNow`, whether its read succeeded or not, copies the payload into `OUT_REC`,
encodes it, writes it and verifies it. That the `Verify` event of a successful read-back carries code 0 is the model's
reading (log 16). -/
def Obligations.TickWritesThePayload : Prop :=
  ∀ (s : State) (tm : Word32) (a b d : Answer) (rest : List PortEvent) (cs : List (BitVec 2))
    (ws : List Word) (ps : List (List Word)),
    s.sess = .busOn ∨ s.sess = .active → s.resetLine = [] → s.collab = .answer a :: .answer b :: .answer d :: rest →
    b.code = s.cfg.rcOk → d.code = s.cfg.rcOk → s.ctrlPort = 1#2 :: cs →
    s.payloadPort = ws :: ps → s.cfg.outNamedBytes ≤ 244 →
      ∃ t u v w, exec (.tick tm) s = .next t ∧
        (∀ k x, k < s.cfg.outNamedWords → ws[k]? = some x →
          t.outRec.read k = x ∧ t.txBuf.read (2 * k) = byteOf s.cfg.byteOrder x false ∧
          t.txBuf.read (2 * k + 1) = byteOf s.cfg.byteOrder x true) ∧
        t.repliedWith
          { verify := if verifyEqual s.cfg.byteOrder t.rbBuf t.txBuf then .isMatch else .mismatch } ∧
        t.sess = .active ∧ t.txValid = false ∧ t.inValid = decide (a.code = s.cfg.rcOk) ∧ s.sameHandles t ∧
        s.sameOperands t ∧ t.hostPort = s.hostPort ∧ t.ctrlPort = cs ∧ t.payloadPort = ps ∧ t.collab = rest ∧
        t.history = s.history ++
          [.call (.chRead s.chH s.cfg.areaIndex s.cfg.areaOffset 488 tm) (some a) u, t.readReport a, .poll 1#2,
           .call (.chWrite s.chH s.cfg.areaIndex s.cfg.areaOffset 244 ((List.range 244).map t.txBuf.read) tm)
             (some b) v,
           .call (.chReadBack s.chH s.cfg.areaIndex s.cfg.areaOffset 244 tm) (some d) w,
           .event (.verify t.lastVerify 0#32), .wait s.cfg.pacingMs,
           .response (rspWord .ok .none t.lastVerify .active false) 0#32]

/-- R182, R185, R186 (a), (c), (d): whatever its sub-operations return, a tick in a ready session responds `Ok` and keeps
the session and its handles; and on `WriteNow`, after a successful or a failed read, what it reports of a write that
fails, of an encode that overflows and of a read-back that fails. -/
def Obligations.TickAbsorbsEveryFailure : Prop :=
  (∀ (s : State) (tm : Word32), s.ready = true → s.cooperative = true →
    ∃ t, exec (.tick tm) s = .next t ∧ t.lastStatus = .ok ∧ t.lastPhase = .none ∧ t.lastCode = 0#32 ∧
      t.busy = false ∧ t.activity = .idle ∧ t.ready = true ∧ s.sameHandles t ∧ s.sameOperands t ∧
      t.seen Obs.isPoll = s.seen Obs.isPoll + 1 ∧ t.seen Obs.isResponse = s.seen Obs.isResponse + 1) ∧
  (∀ (s : State) (tm : Word32) (a b : Answer) (rest : List PortEvent) (cs : List (BitVec 2)),
    s.sess = .busOn ∨ s.sess = .active → s.resetLine = [] → s.collab = .answer a :: .answer b :: rest →
    b.code ≠ s.cfg.rcOk → s.ctrlPort = 1#2 :: cs → s.cfg.outNamedBytes ≤ 244 →
      ∃ t u v, exec (.tick tm) s = .next t ∧ t.repliedWith {} ∧ t.txValid = false ∧
        t.sess = (if a.code = s.cfg.rcOk then .active else s.sess) ∧ s.sameHandles t ∧ s.sameOperands t ∧
        (∀ i, t.rbBuf.read i = s.rbBuf.read i) ∧ t.ctrlPort = cs ∧ t.payloadPort = s.payloadPort.tail ∧
        t.collab = rest ∧
        t.history = s.history ++
          [.call (.chRead s.chH s.cfg.areaIndex s.cfg.areaOffset 488 tm) (some a) u, t.readReport a, .poll 1#2,
           .call (.chWrite s.chH s.cfg.areaIndex s.cfg.areaOffset 244 ((List.range 244).map t.txBuf.read) tm)
             (some b) v,
           .event (.warn .writeFailed .none b.code), .wait s.cfg.pacingMs,
           .response (rspWord .ok .none .notDone t.sess false) 0#32]) ∧
  (∀ (s : State) (tm : Word32) (a : Answer) (rest : List PortEvent) (cs : List (BitVec 2)),
    s.sess = .busOn ∨ s.sess = .active → s.resetLine = [] → s.collab = .answer a :: rest →
    s.ctrlPort = 1#2 :: cs → 244 < s.cfg.outNamedBytes →
      ∃ t u, exec (.tick tm) s = .next t ∧ t.repliedWith {} ∧ t.txValid = false ∧
        t.sess = (if a.code = s.cfg.rcOk then .active else s.sess) ∧ s.sameHandles t ∧ s.sameOperands t ∧
        (∀ i, t.txBuf.read i = s.txBuf.read i) ∧ (∀ i, t.rbBuf.read i = s.rbBuf.read i) ∧ t.ctrlPort = cs ∧
        t.payloadPort = s.payloadPort.tail ∧ t.collab = rest ∧
        t.history = s.history ++
          [.call (.chRead s.chH s.cfg.areaIndex s.cfg.areaOffset 488 tm) (some a) u, t.readReport a, .poll 1#2,
           .event (.warn .bufferOverflow .none 0#32), .wait s.cfg.pacingMs,
           .response (rspWord .ok .none .notDone t.sess false) 0#32]) ∧
  ∀ (s : State) (tm : Word32) (a b d : Answer) (rest : List PortEvent) (cs : List (BitVec 2)),
    s.sess = .busOn ∨ s.sess = .active → s.resetLine = [] → s.collab = .answer a :: .answer b :: .answer d :: rest →
    b.code = s.cfg.rcOk → d.code ≠ s.cfg.rcOk → s.ctrlPort = 1#2 :: cs → s.cfg.outNamedBytes ≤ 244 →
      ∃ t u v w, exec (.tick tm) s = .next t ∧
        t.repliedWith { verify := .readBackFailed, rbCode := d.code } ∧ t.txValid = false ∧ t.sess = .active ∧
        s.sameHandles t ∧ s.sameOperands t ∧ (∀ i, t.rbBuf.specified i = false) ∧ t.ctrlPort = cs ∧
        t.payloadPort = s.payloadPort.tail ∧ t.collab = rest ∧
        t.history = s.history ++
          [.call (.chRead s.chH s.cfg.areaIndex s.cfg.areaOffset 488 tm) (some a) u, t.readReport a, .poll 1#2,
           .call (.chWrite s.chH s.cfg.areaIndex s.cfg.areaOffset 244 ((List.range 244).map t.txBuf.read) tm)
             (some b) v,
           .call (.chReadBack s.chH s.cfg.areaIndex s.cfg.areaOffset 244 tm) (some d) w,
           .event (.verify .readBackFailed d.code), .wait s.cfg.pacingMs,
           .response (rspWord .ok .none .readBackFailed .active false) 0#32]

/-- R186 (h): a tick issues at most three primitives, and none of them closes anything. -/
def Obligations.TickIssuesAtMostThreePrimitives : Prop :=
  ∀ (s t : State) (tm : Word32), exec (.tick tm) s = .next t →
    t.seen Obs.isCall ≤ s.seen Obs.isCall + 3 ∧
    ∀ h, t.chClosed h = s.chClosed h ∧ t.drvClosed h = s.drvClosed h

/-- R188: RUN whose first poll says `Terminate`: one tick, then the terminal close, then `Ok` with `TERM` = 1. -/
def Obligations.RunTerminatesAndCloses : Prop :=
  ∀ (s : State) (tm : Word32) (a b d : Answer) (rest : List PortEvent) (cs : List (BitVec 2)),
    s.sess = .busOn ∨ s.sess = .active → s.chValid = true → s.drvValid = true → s.resetLine = [] →
    s.collab = .answer a :: .answer b :: .answer d :: rest → a.code = s.cfg.rcOk → s.ctrlPort = 2#2 :: cs →
      ∃ t u v w, exec (.run tm) s = .next t ∧ t.repliedWith { term := true } ∧ t.sess = .closed ∧
        t.chValid = false ∧ t.drvValid = false ∧ t.chH = s.cfg.nullHandle ∧ t.drvH = s.cfg.nullHandle ∧
        t.inValid = true ∧ (∀ k, k < 122 → t.inRec.read k = Region.word s.cfg.byteOrder t.rxArea k) ∧
        (∀ i x, i < 488 → a.data[i]? = some x → t.rxArea.read i = x) ∧
        s.sameOutput t ∧ s.sameOperands t ∧ t.hostPort = s.hostPort ∧ t.payloadPort = s.payloadPort ∧
        t.ctrlPort = cs ∧ t.collab = rest ∧
        t.history = s.history ++
          [.call (.chRead s.chH s.cfg.areaIndex s.cfg.areaOffset 488 tm) (some a) u,
           .event (.consumer ((List.range 122).map t.inRec.read)), .poll 2#2,
           .call (.chClose s.chH) (some b) v, .call (.drvClose s.drvH) (some d) w,
           .response (rspWord .ok .none .notDone .closed true) 0#32]

/-- R188, R190, R191 (f): no tick of a RUN whose poll does not say `Terminate` ends it, whatever the tick's transfers
answer, and `BUSY` stays 1 with no response; the next step of the block is the next tick, with the latched timeout. That
RUN makes one tick in one step is the model's choice (log 7). -/
def Obligations.RunGoesOnUntilTerminate : Prop :=
  (∀ (s : State) (tm : Word32) (a : Answer) (rest : List PortEvent) (c : BitVec 2) (cs : List (BitVec 2)),
    s.sess = .busOn ∨ s.sess = .active → s.resetLine = [] → s.collab = .answer a :: rest → a.code = s.cfg.rcOk →
    s.ctrlPort = c :: cs → c ≠ 1#2 → c ≠ 2#2 →
      ∃ t v, exec (.run tm) s = .next t ∧ t.busy = true ∧ t.activity = .runLoop tm ∧ t.sess = .active ∧
        t.inValid = true ∧ s.sameHandles t ∧ s.sameOutput t ∧ s.sameOperands t ∧ t.lastStatus = s.lastStatus ∧
        t.hostPort = s.hostPort ∧ t.payloadPort = s.payloadPort ∧ t.ctrlPort = cs ∧ t.collab = rest ∧
        t.history = s.history ++
          [.call (.chRead s.chH s.cfg.areaIndex s.cfg.areaOffset 488 tm) (some a) v,
           .event (.consumer ((List.range 122).map t.inRec.read)), .poll c, .wait s.cfg.pacingMs]) ∧
  (∀ (s : State) (tm : Word32) (c : BitVec 2) (cs : List (BitVec 2)),
    s.ready = true → s.cooperative = true → s.ctrlPort = c :: cs → c ≠ 2#2 →
      ∃ t, exec (.run tm) s = .next t ∧ t.busy = true ∧ t.activity = .runLoop tm ∧ t.ready = true ∧
        s.sameHandles t ∧ s.sameOperands t ∧ t.ctrlPort = cs ∧ t.seen Obs.isResponse = s.seen Obs.isResponse) ∧
  (∀ (s : State) (tm : Word32) (c : BitVec 2) (cs : List (BitVec 2)),
    s.hostPort = [] → s.activity = .runLoop tm → s.busy = true → s.ready = true → s.cooperative = true →
    s.ctrlPort = c :: cs → c ≠ 2#2 →
      ∃ t, step s = .next t ∧ t.busy = true ∧ t.activity = .runLoop tm ∧ t.ready = true ∧
        s.sameHandles t ∧ s.sameOperands t ∧ t.ctrlPort = cs ∧ t.seen Obs.isResponse = s.seen Obs.isResponse) ∧
  (∀ (s : State) (tm : Word32), s.ready = true →
    exec (.run tm) s = .next (runTick tm { s with busy := true, activity := .runLoop tm })) ∧
  (∀ (s : State) (tm : Word32), s.hostPort = [] → s.activity = .runLoop tm → step s = .next (runTick tm s)) ∧
  ∀ (s : State) (tm : Word32) (rest : List HostAction), s.hostPort = .wait :: rest → s.activity = .runLoop tm →
    step s = .next (runTick tm { s with hostPort := rest })

/-- R188, R191 (a), (b): RUN in a session that is not ready makes no tick, closes all the same and is refused. -/
def Obligations.RunRefusedStillCloses : Prop :=
  ∀ (s : State) (tm : Word32), s.ready = false → s.cooperative = true →
    ∃ t, exec (.run tm) s = .next t ∧ t.repliedWith { status := .refused } ∧ t.sess = .closed ∧
      t.chValid = false ∧ t.drvValid = false ∧ s.sameInput t ∧ s.sameOutput t ∧ s.sameOperands t ∧ s.samePorts t ∧
      t.seen Obs.isTransfer = s.seen Obs.isTransfer ∧ t.seen Obs.isPoll = s.seen Obs.isPoll

/-- R189: when RUN ends, in whatever tick, the session is closed and no handle is held. -/
def Obligations.RunEndsClosed : Prop :=
  ∀ (s t : State) (tm : Word32), s.activity = .runLoop tm → s.busy = true → s.hostPort = [] →
    s.cooperative = true → step s = .next t → t.busy = false →
      t.sess = .closed ∧ t.chValid = false ∧ t.drvValid = false ∧ t.lastStatus = .ok ∧ t.lastTerm = true

/-- R210: only TICK and RUN look at the control port. -/
def Obligations.OnlySequencerPollsControl : Prop :=
  ∀ (i : Instr) (s t : State), (∀ tm, i ≠ .tick tm) → (∀ tm, i ≠ .run tm) → exec i s = .next t →
    t.ctrlPort = s.ctrlPort ∧ t.payloadPort = s.payloadPort ∧ t.seen Obs.isPoll = s.seen Obs.isPoll

/-! ### The whole machine -/

/-- R22, R23, R188: every step keeps the session invariant. -/
def Obligations.StepKeepsSessionInvariant : Prop :=
  ∀ s t : State, s.sessionInv = true → step s = .next t → t.sessionInv = true

/-- R9, R21, R24 to R28, R69 (b): every step keeps the canonical form and the size of every register file and buffer, and
the handles fit `HANDLE_BITS`. -/
def Obligations.StepKeepsDataInvariant : Prop :=
  ∀ s t : State, s.dataInv = true → step s = .next t → t.dataInv = true

/-- Both invariants hold after reset. -/
def Obligations.InvariantsHoldAtReset : Prop := State.reset.sessionInv = true ∧ State.reset.dataInv = true

/-- R149 (e): no handle is ever closed more often than it was acquired, resets, failures and silent collaborators
included. -/
def Obligations.HandlesAreClosedAtMostOnce : Prop :=
  ∀ s t : State, s.sessionInv = true → s.closedAtMostOnce → step s = .next t → t.closedAtMostOnce

/-- R149 (e), R188: as long as no reset happens, no acquired handle is ever lost: it is held, or it has been closed
exactly once. -/
def Obligations.NoHandleLeaksWithoutReset : Prop :=
  ∀ s t : State, s.sessionInv = true → s.nothingLeaked → step s = .next t → t.neverReset = true → t.nothingLeaked

/-- R251: an idle block in `Closed` that has leaked nothing is in a clean final state. -/
def Obligations.ClosedSessionIsClean : Prop :=
  ∀ s : State, s.sessionInv = true → s.nothingLeaked → s.activity = .idle → s.sess = .closed → s.clean

/-- R30: no step writes the parameters. -/
def Obligations.ParametersAreNeverWritten : Prop :=
  ∀ s t : State, step s = .next t → t.cfg = s.cfg

/-- R63, R68: every transfer any step issues moves a whole area from `AREA_OFFSET` of `AREA_INDEX`: 488 bytes in, 244
bytes out, 244 bytes back. -/
def Obligations.TransfersMoveWholeAreas : Prop :=
  ∀ s t : State, (∀ o ∈ s.history, o.wholeTransfer s.cfg = true) → step s = .next t →
    ∀ o ∈ t.history, o.wholeTransfer t.cfg = true

/-- R225: the block never calls `getErrorDescription`. -/
def Obligations.ErrorDescriptionIsNeverCalled : Prop :=
  ∀ s t : State, s.seen Obs.isErrDesc = 0 → step s = .next t → t.seen Obs.isErrDesc = 0
end

