-- ==== Sys2Proof/Laws/Memory.lean ====
section
/-! SUPPORT. Regions: read after write, what a filled region holds, and the canonical form of every operation. -/

namespace Sys2Proof.Machine

variable {w : Nat}

theorem lookupCell_insertCell (cs : List (Nat × BitVec w)) (i j : Nat) (v : BitVec w) :
    lookupCell (insertCell cs i v) j = if i = j then some v else lookupCell cs j := by
  induction cs with
  | nil => simp [insertCell, lookupCell]
  | cons c rest ih =>
    obtain ⟨a, b⟩ := c
    unfold insertCell
    split
    · simp [lookupCell]
    · split
      · next _ h => subst h; by_cases hij : i = j <;> simp [lookupCell, hij]
      · next h1 h2 =>
        simp only [lookupCell, ih]
        by_cases haj : a = j
        · have : i ≠ j := fun h => h2 (h.trans haj.symm)
          simp [haj, this]
        · simp [haj]

@[simp] theorem Region.read_write_same (r : Region w) (i : Nat) (v : BitVec w) : (r.write i v).read i = v := by
  simp [Region.read, Region.write, lookupCell_insertCell]

theorem Region.read_write_ne (r : Region w) {i j : Nat} (v : BitVec w) (h : i ≠ j) :
    (r.write i v).read j = r.read j := by
  simp [Region.read, Region.write, lookupCell_insertCell, h]

theorem lookupCell_cellsFrom (vs : List (BitVec w)) (base j : Nat) :
    lookupCell (cellsFrom base vs) j = if base ≤ j then vs[j - base]? else none := by
  induction vs generalizing base with
  | nil => simp [cellsFrom, lookupCell]
  | cons v vs ih =>
    simp only [cellsFrom, lookupCell, ih]
    by_cases h : base = j
    · simp [h]
    · by_cases h1 : base + 1 ≤ j
      · have h2 : base ≤ j := by omega
        rw [if_neg h, if_pos h1, if_pos h2, show j - base = j - (base + 1) + 1 by omega, List.getElem?_cons_succ]
      · have h2 : ¬ base ≤ j := by omega
        simp [h, h1, h2]

/-- What a filled region holds: its values, then the free values that stand for the rest. -/
theorem Region.read_filled (vs : List (BitVec w)) (d i : Nat) :
    (Region.filled vs d).read i = (vs[i]?).getD (Config.freeBits w d i) := by
  simp [Region.read, Region.filled, lookupCell_cellsFrom]

theorem Region.read_filled_lt (vs : List (BitVec w)) (d : Nat) {i : Nat} (h : i < vs.length) :
    (Region.filled vs d).read i = vs[i] := by
  simp [Region.read_filled, h]

@[simp] theorem Region.read_unspecified (d i : Nat) :
    (Region.unspecified w d).read i = Config.freeBits w d i := rfl

@[simp] theorem Region.specified_unspecified (d i : Nat) : (Region.unspecified w d).specified i = false := rfl

theorem risingBelow_insertCell {size lo i : Nat} {cs : List (Nat × BitVec w)} (v : BitVec w)
    (h : risingBelow size lo cs = true) (hlo : lo ≤ i) (hi : i < size) :
    risingBelow size lo (insertCell cs i v) = true := by
  induction cs generalizing lo with
  | nil => simp [insertCell, risingBelow, hlo, hi]
  | cons c rest ih =>
    obtain ⟨a, b⟩ := c
    simp only [risingBelow, Bool.and_eq_true, decide_eq_true_eq] at h
    unfold insertCell
    split
    · next h1 =>
      simp only [risingBelow, Bool.and_eq_true, decide_eq_true_eq]
      exact ⟨hlo, hi, by omega, h.2.1, h.2.2⟩
    · split
      · next _ h2 =>
        subst h2
        simp only [risingBelow, Bool.and_eq_true, decide_eq_true_eq]
        exact ⟨hlo, hi, h.2.2⟩
      · next h1 h2 =>
        simp only [risingBelow, Bool.and_eq_true, decide_eq_true_eq]
        exact ⟨h.1, h.2.1, ih h.2.2 (by omega)⟩

/-- A write inside the region keeps the canonical form. -/
theorem Region.wf_write {size i : Nat} {r : Region w} (v : BitVec w) (h : r.wf size = true) (hi : i < size) :
    (r.write i v).wf size = true :=
  risingBelow_insertCell v h (Nat.zero_le i) hi

theorem risingBelow_cellsFrom (size base : Nat) (vs : List (BitVec w)) (h : base + vs.length ≤ size) :
    risingBelow size base (cellsFrom base vs) = true := by
  induction vs generalizing base with
  | nil => rfl
  | cons v vs ih =>
    simp only [List.length_cons] at h
    simp only [cellsFrom, risingBelow, Bool.and_eq_true, decide_eq_true_eq]
    exact ⟨Nat.le_refl _, by omega, ih _ (by omega)⟩

/-- A filled region has the canonical form if its values fit. -/
theorem Region.wf_filled {size : Nat} (vs : List (BitVec w)) (d : Nat) (h : vs.length ≤ size) :
    (Region.filled vs d).wf size = true :=
  risingBelow_cellsFrom size 0 vs (by omega)

@[simp] theorem Region.wf_unspecified (size d : Nat) : (Region.unspecified w d).wf size = true := rfl

@[simp] theorem Region.length_toList (r : Region w) (n : Nat) : (r.toList n).length = n := by
  simp [Region.toList]

theorem Region.getElem_toList (r : Region w) (n : Nat) {i : Nat} (h : i < (r.toList n).length) :
    (r.toList n)[i] = r.read i := by
  simp [Region.toList]

/-- In a canonical listing from `lo` on nothing below `lo` is listed. -/
theorem lookupCell_eq_none_of_risingBelow {size lo j : Nat} {cs : List (Nat × BitVec w)}
    (h : risingBelow size lo cs = true) (hj : j < lo) : lookupCell cs j = none := by
  induction cs generalizing lo with
  | nil => rfl
  | cons c rest ih =>
    obtain ⟨a, b⟩ := c
    simp only [risingBelow, Bool.and_eq_true, decide_eq_true_eq] at h
    simp only [lookupCell]
    rw [if_neg (by omega)]
    exact ih h.2.2 (by omega)

/-- In a canonical region nothing is listed past its size. -/
theorem lookupCell_eq_none_of_size_le {size lo j : Nat} {cs : List (Nat × BitVec w)}
    (h : risingBelow size lo cs = true) (hj : size ≤ j) : lookupCell cs j = none := by
  induction cs generalizing lo with
  | nil => rfl
  | cons c rest ih =>
    obtain ⟨a, b⟩ := c
    simp only [risingBelow, Bool.and_eq_true, decide_eq_true_eq] at h
    simp only [lookupCell]
    rw [if_neg (by omega)]
    exact ih h.2.2

end Sys2Proof.Machine
end

