-- ==== Sys2Proof/Laws/Codec.lean ====
section
/-! SUPPORT. Words and bytes (R11), the two codec functions, and all that the two codec commands can do. -/

namespace Sys2Proof.Machine

/-- `Word(PutWord(v)) = v` in both byte orders (R11, R128). -/
@[simp] theorem wordOf_byteOf (bo : ByteOrder) (v : Word) :
    wordOf bo (byteOf bo v false) (byteOf bo v true) = v := by
  cases bo <;>
  · simp only [wordOf, byteOf]
    ext i hi
    simp only [BitVec.getElem_append, BitVec.getElem_extractLsb']
    split
    · rw [← BitVec.getLsbD_eq_getElem hi]; congr 1; omega
    · rw [← BitVec.getLsbD_eq_getElem hi]; congr 1; omega

/-- The byte at the even offset of an assembled word. -/
@[simp] theorem byteOf_wordOf_even (bo : ByteOrder) (b0 b1 : Byte) : byteOf bo (wordOf bo b0 b1) false = b0 := by
  cases bo <;>
  · simp only [wordOf, byteOf]
    ext i hi
    simp only [BitVec.getElem_extractLsb', BitVec.getLsbD_append]
    simp [hi, BitVec.getLsbD_eq_getElem]

/-- The byte at the odd offset of an assembled word. -/
@[simp] theorem byteOf_wordOf_odd (bo : ByteOrder) (b0 b1 : Byte) : byteOf bo (wordOf bo b0 b1) true = b1 := by
  cases bo <;>
  · simp only [wordOf, byteOf]
    ext i hi
    simp only [BitVec.getElem_extractLsb', BitVec.getLsbD_append]
    simp [hi, BitVec.getLsbD_eq_getElem]

theorem decodeRecord_short {bo : ByteOrder} {buf : Memory} {len : Nat} (h : len < recBytes) :
    decodeRecord bo buf len = none := by
  simp only [decodeRecord, if_pos h]

theorem decodeRecord_long {bo : ByteOrder} {buf : Memory} {len : Nat} (h : recBytes ≤ len) :
    decodeRecord bo buf len = some ((List.range recWords).map (Region.word bo buf)) := by
  simp only [decodeRecord, if_neg (Nat.not_lt.mpr h)]

theorem encodeRecord_overflow {c : Config} {rec : RegFile} (h : recBytes < c.outNamedBytes) :
    encodeRecord c rec = none := by
  simp only [encodeRecord, if_pos h]

theorem encodeRecord_fits {c : Config} {rec : RegFile} (h : c.outNamedBytes ≤ recBytes) :
    encodeRecord c rec = some ((List.range recBytes).map (encodedByte c rec)) := by
  simp only [encodeRecord, if_neg (Nat.not_lt.mpr h)]

/-- All that DECODE can do (R122). -/
theorem decodeBody_cases (len : Nat) (s : State) :
    (inAreaBytes < len ∧ decodeBody len s = (Reply.refused, s)) ∨
    (len < recBytes ∧ decodeBody len s = ({ status := .sizeMismatch }, voidIn s)) ∨
    (recBytes ≤ len ∧ len ≤ inAreaBytes ∧ decodeBody len s =
      ({}, storeIn ((List.range recWords).map (Region.word s.cfg.byteOrder s.rxArea)) s)) := by
  unfold decodeBody
  split
  · next h => exact .inl ⟨h, rfl⟩
  · next h =>
    by_cases h2 : len < recBytes
    · rw [decodeRecord_short h2]; exact .inr (.inl ⟨h2, rfl⟩)
    · rw [decodeRecord_long (Nat.not_lt.mp h2)]
      exact .inr (.inr ⟨Nat.not_lt.mp h2, Nat.not_lt.mp h, rfl⟩)

/-- All that ENCODE can do (R126). -/
theorem encodeBody_cases (s : State) :
    (recBytes < s.cfg.outNamedBytes ∧
      encodeBody s = ({ status := .bufferOverflow }, consumeTx s)) ∨
    (s.cfg.outNamedBytes ≤ recBytes ∧
      encodeBody s = ({}, storeTx ((List.range recBytes).map (encodedByte s.cfg s.outRec)) s)) := by
  unfold encodeBody
  by_cases h : recBytes < s.cfg.outNamedBytes
  · rw [encodeRecord_overflow h]; exact .inl ⟨h, rfl⟩
  · rw [encodeRecord_fits (Nat.not_lt.mp h)]; exact .inr ⟨Nat.not_lt.mp h, rfl⟩

end Sys2Proof.Machine
end

