-- ==== Sys2Proof/Laws/Decode.lean ====
section
/-! SUPPORT. The bit fields of `CMD` (R98) and what the decoder's pieces answer. -/

namespace Sys2Proof

/-- The three fields laid out as R98 has them. -/
def cmdOf (rsv : BitVec 23) (v : Bool) (opc : BitVec 8) : Word32 := rsv ++ BitVec.ofBool v ++ opc

theorem getLsbD_cmdOf (r : BitVec 23) (v : Bool) (o : BitVec 8) (i : Nat) :
    (cmdOf r v o).getLsbD i =
      if i < 8 then o.getLsbD i else if i = 8 then v else r.getLsbD (i - 9) := by
  show (r ++ BitVec.ofBool v ++ o : BitVec (23 + 1 + 8)).getLsbD i = _
  rw [BitVec.getLsbD_append, BitVec.getLsbD_append]
  by_cases h : i < 8
  · simp [h]
  · by_cases h8 : i = 8
    · subst h8; cases v <;> simp
    · have : ¬ i - 8 < 1 := by omega
      simp [h, h8, this, show i - 8 - 1 = i - 9 by omega]

@[simp] theorem cmdOf_opc (r : BitVec 23) (v : Bool) (o : BitVec 8) : (cmdOf r v o).extractLsb' 0 8 = o := by
  apply BitVec.eq_of_getLsbD_eq
  intro i hi
  rw [BitVec.getLsbD_extractLsb', getLsbD_cmdOf]
  simp [hi]

@[simp] theorem cmdOf_v (r : BitVec 23) (v : Bool) (o : BitVec 8) : (cmdOf r v o).getLsbD 8 = v := by
  rw [getLsbD_cmdOf]
  simp

@[simp] theorem cmdOf_rsv (r : BitVec 23) (v : Bool) (o : BitVec 8) : (cmdOf r v o).extractLsb' 9 23 = r := by
  apply BitVec.eq_of_getLsbD_eq
  intro i hi
  rw [BitVec.getLsbD_extractLsb', getLsbD_cmdOf, if_neg (by omega), if_neg (by omega)]
  simp [hi, show 9 + i - 9 = i by omega]

/-- `CMD` is made of its three fields. -/
theorem cmdOf_fields (w : Word32) : cmdOf (w.extractLsb' 9 23) (w.getLsbD 8) (w.extractLsb' 0 8) = w := by
  apply BitVec.eq_of_getLsbD_eq
  intro i hi
  rw [getLsbD_cmdOf]
  by_cases h : i < 8
  · simp [h]
  · by_cases h8 : i = 8
    · simp [h8]
    · rw [if_neg h, if_neg h8, BitVec.getLsbD_extractLsb', show 9 + (i - 9) = i by omega]
      simp [show i - 9 < 23 by omega]

theorem encodeInstr_cmd (i : Instr) : (encodeInstr i).cmd = cmdOf 0#23 i.verifyFlag i.opc := rfl

@[simp] theorem encodeInstr_rsv (i : Instr) : (encodeInstr i).rsv = 0#23 := by
  simp [Frame.rsv, encodeInstr_cmd]

@[simp] theorem encodeInstr_v (i : Instr) : (encodeInstr i).v = i.verifyFlag := by
  rw [Frame.v, encodeInstr_cmd, cmdOf_v]

@[simp] theorem encodeInstr_opc (i : Instr) : (encodeInstr i).opc = i.opc := by
  simp [Frame.opc, encodeInstr_cmd]

/-- The command an operation code selects has that operation code (R100, R101). -/
theorem opc_of_instrOf {o : BitVec 8} {v : Bool} {a : Word32} {i : Instr} (h : instrOf o v a = some i) :
    i.opc = o := by
  unfold instrOf at h
  split at h <;> cases h <;> (apply BitVec.eq_of_toNat_eq; simp_all [Instr.opc])

/-- All that the decoder can answer (R101, R102). -/
theorem decodeFrame_cases (f : Frame) :
    (f.rsv ≠ 0#23 ∧ decodeFrame f = .error .reservedBits) ∨
    (f.rsv = 0#23 ∧ f.v = true ∧ f.opc ≠ 0x21#8 ∧ decodeFrame f = .error .strayVerifyFlag) ∨
    (f.rsv = 0#23 ∧ (f.v = true → f.opc = 0x21#8) ∧ instrOf f.opc f.v f.arg = none ∧
      decodeFrame f = .error .unassignedOpcode) ∨
    ∃ i, f.rsv = 0#23 ∧ (f.v = true → f.opc = 0x21#8) ∧ instrOf f.opc f.v f.arg = some i ∧ decodeFrame f = .ok i := by
  unfold decodeFrame
  by_cases hr : f.rsv = 0#23
  · by_cases hv : f.v = true ∧ f.opc ≠ 0x21#8
    · exact .inr (.inl ⟨hr, hv.1, hv.2, by simp [hr, hv]⟩)
    · have hv' : f.v = true → f.opc = 0x21#8 := fun h => Decidable.byContradiction fun h2 => hv ⟨h, h2⟩
      cases hi : instrOf f.opc f.v f.arg with
      | none => exact .inr (.inr (.inl ⟨hr, hv', rfl, by simp only [hr, ne_eq, not_true, if_false, if_neg hv]⟩))
      | some i => exact .inr (.inr (.inr ⟨i, hr, hv', rfl, by simp only [hr, ne_eq, not_true, if_false, if_neg hv]⟩))
  · exact .inl ⟨hr, by simp [hr]⟩

end Sys2Proof
end

