-- ==== Sys2Proof/Laws/State.lean ====
section
/-! SUPPORT. What each named update of the state does to each field: one lemma a field, so that no proof unfolds a
record update. -/

namespace Sys2Proof.Machine

section
variable (s : State) (r : Reply)

@[simp] theorem withReply_sess : (s.withReply r).sess = s.sess := rfl
@[simp] theorem withReply_drvH : (s.withReply r).drvH = s.drvH := rfl
@[simp] theorem withReply_chH : (s.withReply r).chH = s.chH := rfl
@[simp] theorem withReply_drvValid : (s.withReply r).drvValid = s.drvValid := rfl
@[simp] theorem withReply_chValid : (s.withReply r).chValid = s.chValid := rfl
@[simp] theorem withReply_busy : (s.withReply r).busy = s.busy := rfl
@[simp] theorem withReply_inRec : (s.withReply r).inRec = s.inRec := rfl
@[simp] theorem withReply_inValid : (s.withReply r).inValid = s.inValid := rfl
@[simp] theorem withReply_outRec : (s.withReply r).outRec = s.outRec := rfl
@[simp] theorem withReply_rxArea : (s.withReply r).rxArea = s.rxArea := rfl
@[simp] theorem withReply_txBuf : (s.withReply r).txBuf = s.txBuf := rfl
@[simp] theorem withReply_txValid : (s.withReply r).txValid = s.txValid := rfl
@[simp] theorem withReply_rbBuf : (s.withReply r).rbBuf = s.rbBuf := rfl
@[simp] theorem withReply_lastStatus : (s.withReply r).lastStatus = r.status := rfl
@[simp] theorem withReply_lastPhase : (s.withReply r).lastPhase = r.phase := rfl
@[simp] theorem withReply_lastCode : (s.withReply r).lastCode = r.code := rfl
@[simp] theorem withReply_lastVerify : (s.withReply r).lastVerify = r.verify := rfl
@[simp] theorem withReply_rbCode : (s.withReply r).rbCode = r.rbCode := rfl
@[simp] theorem withReply_lastTerm : (s.withReply r).lastTerm = r.term := rfl
@[simp] theorem withReply_cmd : (s.withReply r).cmd = s.cmd := rfl
@[simp] theorem withReply_arg : (s.withReply r).arg = s.arg := rfl
@[simp] theorem withReply_boardName : (s.withReply r).boardName = s.boardName := rfl
@[simp] theorem withReply_activity : (s.withReply r).activity = s.activity := rfl
@[simp] theorem withReply_cfg : (s.withReply r).cfg = s.cfg := rfl
@[simp] theorem withReply_hostPort : (s.withReply r).hostPort = s.hostPort := rfl
@[simp] theorem withReply_collab : (s.withReply r).collab = s.collab := rfl
@[simp] theorem withReply_resetLine : (s.withReply r).resetLine = s.resetLine := rfl
@[simp] theorem withReply_ctrlPort : (s.withReply r).ctrlPort = s.ctrlPort := rfl
@[simp] theorem withReply_payloadPort : (s.withReply r).payloadPort = s.payloadPort := rfl
@[simp] theorem withReply_history : (s.withReply r).history = s.history := rfl
@[simp] theorem withReply_draws : (s.withReply r).draws = s.draws := rfl

end

section
variable (s : State) (o : Obs)

@[simp] theorem observe_sess : (s.observe o).sess = s.sess := rfl
@[simp] theorem observe_drvH : (s.observe o).drvH = s.drvH := rfl
@[simp] theorem observe_chH : (s.observe o).chH = s.chH := rfl
@[simp] theorem observe_drvValid : (s.observe o).drvValid = s.drvValid := rfl
@[simp] theorem observe_chValid : (s.observe o).chValid = s.chValid := rfl
@[simp] theorem observe_busy : (s.observe o).busy = s.busy := rfl
@[simp] theorem observe_inRec : (s.observe o).inRec = s.inRec := rfl
@[simp] theorem observe_inValid : (s.observe o).inValid = s.inValid := rfl
@[simp] theorem observe_outRec : (s.observe o).outRec = s.outRec := rfl
@[simp] theorem observe_rxArea : (s.observe o).rxArea = s.rxArea := rfl
@[simp] theorem observe_txBuf : (s.observe o).txBuf = s.txBuf := rfl
@[simp] theorem observe_txValid : (s.observe o).txValid = s.txValid := rfl
@[simp] theorem observe_rbBuf : (s.observe o).rbBuf = s.rbBuf := rfl
@[simp] theorem observe_lastStatus : (s.observe o).lastStatus = s.lastStatus := rfl
@[simp] theorem observe_lastPhase : (s.observe o).lastPhase = s.lastPhase := rfl
@[simp] theorem observe_lastCode : (s.observe o).lastCode = s.lastCode := rfl
@[simp] theorem observe_lastVerify : (s.observe o).lastVerify = s.lastVerify := rfl
@[simp] theorem observe_rbCode : (s.observe o).rbCode = s.rbCode := rfl
@[simp] theorem observe_lastTerm : (s.observe o).lastTerm = s.lastTerm := rfl
@[simp] theorem observe_cmd : (s.observe o).cmd = s.cmd := rfl
@[simp] theorem observe_arg : (s.observe o).arg = s.arg := rfl
@[simp] theorem observe_boardName : (s.observe o).boardName = s.boardName := rfl
@[simp] theorem observe_activity : (s.observe o).activity = s.activity := rfl
@[simp] theorem observe_cfg : (s.observe o).cfg = s.cfg := rfl
@[simp] theorem observe_hostPort : (s.observe o).hostPort = s.hostPort := rfl
@[simp] theorem observe_collab : (s.observe o).collab = s.collab := rfl
@[simp] theorem observe_resetLine : (s.observe o).resetLine = s.resetLine := rfl
@[simp] theorem observe_ctrlPort : (s.observe o).ctrlPort = s.ctrlPort := rfl
@[simp] theorem observe_payloadPort : (s.observe o).payloadPort = s.payloadPort := rfl
@[simp] theorem observe_history : (s.observe o).history = s.history ++ [o] := rfl
@[simp] theorem observe_draws : (s.observe o).draws = s.draws := rfl

end

section
variable (s : State)

@[simp] theorem begin_sess : (s.begin).sess = s.sess := rfl
@[simp] theorem begin_drvH : (s.begin).drvH = s.drvH := rfl
@[simp] theorem begin_chH : (s.begin).chH = s.chH := rfl
@[simp] theorem begin_drvValid : (s.begin).drvValid = s.drvValid := rfl
@[simp] theorem begin_chValid : (s.begin).chValid = s.chValid := rfl
@[simp] theorem begin_busy : (s.begin).busy = true := rfl
@[simp] theorem begin_inRec : (s.begin).inRec = s.inRec := rfl
@[simp] theorem begin_inValid : (s.begin).inValid = s.inValid := rfl
@[simp] theorem begin_outRec : (s.begin).outRec = s.outRec := rfl
@[simp] theorem begin_rxArea : (s.begin).rxArea = s.rxArea := rfl
@[simp] theorem begin_txBuf : (s.begin).txBuf = s.txBuf := rfl
@[simp] theorem begin_txValid : (s.begin).txValid = s.txValid := rfl
@[simp] theorem begin_rbBuf : (s.begin).rbBuf = s.rbBuf := rfl
@[simp] theorem begin_lastStatus : (s.begin).lastStatus = s.lastStatus := rfl
@[simp] theorem begin_lastPhase : (s.begin).lastPhase = s.lastPhase := rfl
@[simp] theorem begin_lastCode : (s.begin).lastCode = s.lastCode := rfl
@[simp] theorem begin_lastVerify : (s.begin).lastVerify = s.lastVerify := rfl
@[simp] theorem begin_rbCode : (s.begin).rbCode = s.rbCode := rfl
@[simp] theorem begin_lastTerm : (s.begin).lastTerm = s.lastTerm := rfl
@[simp] theorem begin_cmd : (s.begin).cmd = s.cmd := rfl
@[simp] theorem begin_arg : (s.begin).arg = s.arg := rfl
@[simp] theorem begin_boardName : (s.begin).boardName = s.boardName := rfl
@[simp] theorem begin_activity : (s.begin).activity = s.activity := rfl
@[simp] theorem begin_cfg : (s.begin).cfg = s.cfg := rfl
@[simp] theorem begin_hostPort : (s.begin).hostPort = s.hostPort := rfl
@[simp] theorem begin_collab : (s.begin).collab = s.collab := rfl
@[simp] theorem begin_resetLine : (s.begin).resetLine = s.resetLine := rfl
@[simp] theorem begin_ctrlPort : (s.begin).ctrlPort = s.ctrlPort := rfl
@[simp] theorem begin_payloadPort : (s.begin).payloadPort = s.payloadPort := rfl
@[simp] theorem begin_history : (s.begin).history = s.history := rfl
@[simp] theorem begin_draws : (s.begin).draws = s.draws := rfl

end

section
variable (s : State)

@[simp] theorem finish_sess : (s.finish).sess = s.sess := rfl
@[simp] theorem finish_drvH : (s.finish).drvH = s.drvH := rfl
@[simp] theorem finish_chH : (s.finish).chH = s.chH := rfl
@[simp] theorem finish_drvValid : (s.finish).drvValid = s.drvValid := rfl
@[simp] theorem finish_chValid : (s.finish).chValid = s.chValid := rfl
@[simp] theorem finish_busy : (s.finish).busy = false := rfl
@[simp] theorem finish_inRec : (s.finish).inRec = s.inRec := rfl
@[simp] theorem finish_inValid : (s.finish).inValid = s.inValid := rfl
@[simp] theorem finish_outRec : (s.finish).outRec = s.outRec := rfl
@[simp] theorem finish_rxArea : (s.finish).rxArea = s.rxArea := rfl
@[simp] theorem finish_txBuf : (s.finish).txBuf = s.txBuf := rfl
@[simp] theorem finish_txValid : (s.finish).txValid = s.txValid := rfl
@[simp] theorem finish_rbBuf : (s.finish).rbBuf = s.rbBuf := rfl
@[simp] theorem finish_lastStatus : (s.finish).lastStatus = s.lastStatus := rfl
@[simp] theorem finish_lastPhase : (s.finish).lastPhase = s.lastPhase := rfl
@[simp] theorem finish_lastCode : (s.finish).lastCode = s.lastCode := rfl
@[simp] theorem finish_lastVerify : (s.finish).lastVerify = s.lastVerify := rfl
@[simp] theorem finish_rbCode : (s.finish).rbCode = s.rbCode := rfl
@[simp] theorem finish_lastTerm : (s.finish).lastTerm = s.lastTerm := rfl
@[simp] theorem finish_cmd : (s.finish).cmd = s.cmd := rfl
@[simp] theorem finish_arg : (s.finish).arg = s.arg := rfl
@[simp] theorem finish_boardName : (s.finish).boardName = s.boardName := rfl
@[simp] theorem finish_activity : (s.finish).activity = .idle := rfl
@[simp] theorem finish_cfg : (s.finish).cfg = s.cfg := rfl
@[simp] theorem finish_hostPort : (s.finish).hostPort = s.hostPort := rfl
@[simp] theorem finish_collab : (s.finish).collab = s.collab := rfl
@[simp] theorem finish_resetLine : (s.finish).resetLine = s.resetLine := rfl
@[simp] theorem finish_ctrlPort : (s.finish).ctrlPort = s.ctrlPort := rfl
@[simp] theorem finish_payloadPort : (s.finish).payloadPort = s.payloadPort := rfl
@[simp] theorem finish_history : (s.finish).history = s.history := rfl
@[simp] theorem finish_draws : (s.finish).draws = s.draws := rfl

end

section
variable (s : State)

@[simp] theorem drawn_sess : (s.drawn).sess = s.sess := rfl
@[simp] theorem drawn_drvH : (s.drawn).drvH = s.drvH := rfl
@[simp] theorem drawn_chH : (s.drawn).chH = s.chH := rfl
@[simp] theorem drawn_drvValid : (s.drawn).drvValid = s.drvValid := rfl
@[simp] theorem drawn_chValid : (s.drawn).chValid = s.chValid := rfl
@[simp] theorem drawn_busy : (s.drawn).busy = s.busy := rfl
@[simp] theorem drawn_inRec : (s.drawn).inRec = s.inRec := rfl
@[simp] theorem drawn_inValid : (s.drawn).inValid = s.inValid := rfl
@[simp] theorem drawn_outRec : (s.drawn).outRec = s.outRec := rfl
@[simp] theorem drawn_rxArea : (s.drawn).rxArea = s.rxArea := rfl
@[simp] theorem drawn_txBuf : (s.drawn).txBuf = s.txBuf := rfl
@[simp] theorem drawn_txValid : (s.drawn).txValid = s.txValid := rfl
@[simp] theorem drawn_rbBuf : (s.drawn).rbBuf = s.rbBuf := rfl
@[simp] theorem drawn_lastStatus : (s.drawn).lastStatus = s.lastStatus := rfl
@[simp] theorem drawn_lastPhase : (s.drawn).lastPhase = s.lastPhase := rfl
@[simp] theorem drawn_lastCode : (s.drawn).lastCode = s.lastCode := rfl
@[simp] theorem drawn_lastVerify : (s.drawn).lastVerify = s.lastVerify := rfl
@[simp] theorem drawn_rbCode : (s.drawn).rbCode = s.rbCode := rfl
@[simp] theorem drawn_lastTerm : (s.drawn).lastTerm = s.lastTerm := rfl
@[simp] theorem drawn_cmd : (s.drawn).cmd = s.cmd := rfl
@[simp] theorem drawn_arg : (s.drawn).arg = s.arg := rfl
@[simp] theorem drawn_boardName : (s.drawn).boardName = s.boardName := rfl
@[simp] theorem drawn_activity : (s.drawn).activity = s.activity := rfl
@[simp] theorem drawn_cfg : (s.drawn).cfg = s.cfg := rfl
@[simp] theorem drawn_hostPort : (s.drawn).hostPort = s.hostPort := rfl
@[simp] theorem drawn_collab : (s.drawn).collab = s.collab := rfl
@[simp] theorem drawn_resetLine : (s.drawn).resetLine = s.resetLine := rfl
@[simp] theorem drawn_ctrlPort : (s.drawn).ctrlPort = s.ctrlPort := rfl
@[simp] theorem drawn_payloadPort : (s.drawn).payloadPort = s.payloadPort := rfl
@[simp] theorem drawn_history : (s.drawn).history = s.history := rfl
@[simp] theorem drawn_draws : (s.drawn).draws = s.draws + 1 := rfl

end

section
variable (r : Reply) (s : State)

@[simp] theorem respond_sess : (respond r s).sess = s.sess := rfl
@[simp] theorem respond_drvH : (respond r s).drvH = s.drvH := rfl
@[simp] theorem respond_chH : (respond r s).chH = s.chH := rfl
@[simp] theorem respond_drvValid : (respond r s).drvValid = s.drvValid := rfl
@[simp] theorem respond_chValid : (respond r s).chValid = s.chValid := rfl
@[simp] theorem respond_busy : (respond r s).busy = false := rfl
@[simp] theorem respond_inRec : (respond r s).inRec = s.inRec := rfl
@[simp] theorem respond_inValid : (respond r s).inValid = s.inValid := rfl
@[simp] theorem respond_outRec : (respond r s).outRec = s.outRec := rfl
@[simp] theorem respond_rxArea : (respond r s).rxArea = s.rxArea := rfl
@[simp] theorem respond_txBuf : (respond r s).txBuf = s.txBuf := rfl
@[simp] theorem respond_txValid : (respond r s).txValid = s.txValid := rfl
@[simp] theorem respond_rbBuf : (respond r s).rbBuf = s.rbBuf := rfl
@[simp] theorem respond_lastStatus : (respond r s).lastStatus = r.status := rfl
@[simp] theorem respond_lastPhase : (respond r s).lastPhase = r.phase := rfl
@[simp] theorem respond_lastCode : (respond r s).lastCode = r.code := rfl
@[simp] theorem respond_lastVerify : (respond r s).lastVerify = r.verify := rfl
@[simp] theorem respond_rbCode : (respond r s).rbCode = r.rbCode := rfl
@[simp] theorem respond_lastTerm : (respond r s).lastTerm = r.term := rfl
@[simp] theorem respond_cmd : (respond r s).cmd = s.cmd := rfl
@[simp] theorem respond_arg : (respond r s).arg = s.arg := rfl
@[simp] theorem respond_boardName : (respond r s).boardName = s.boardName := rfl
@[simp] theorem respond_activity : (respond r s).activity = .idle := rfl
@[simp] theorem respond_cfg : (respond r s).cfg = s.cfg := rfl
@[simp] theorem respond_hostPort : (respond r s).hostPort = s.hostPort := rfl
@[simp] theorem respond_collab : (respond r s).collab = s.collab := rfl
@[simp] theorem respond_resetLine : (respond r s).resetLine = s.resetLine := rfl
@[simp] theorem respond_ctrlPort : (respond r s).ctrlPort = s.ctrlPort := rfl
@[simp] theorem respond_payloadPort : (respond r s).payloadPort = s.payloadPort := rfl
@[simp] theorem respond_history : (respond r s).history = s.history ++ [.response (rspWord r.status r.phase r.verify s.sess r.term) r.code] := rfl
@[simp] theorem respond_draws : (respond r s).draws = s.draws := rfl

end

section
variable (p : Primitive) (s : State)

@[simp] theorem hang_sess : (hang p s).sess = s.sess := rfl
@[simp] theorem hang_drvH : (hang p s).drvH = s.drvH := rfl
@[simp] theorem hang_chH : (hang p s).chH = s.chH := rfl
@[simp] theorem hang_drvValid : (hang p s).drvValid = s.drvValid := rfl
@[simp] theorem hang_chValid : (hang p s).chValid = s.chValid := rfl
@[simp] theorem hang_busy : (hang p s).busy = s.busy := rfl
@[simp] theorem hang_inRec : (hang p s).inRec = s.inRec := rfl
@[simp] theorem hang_inValid : (hang p s).inValid = s.inValid := rfl
@[simp] theorem hang_outRec : (hang p s).outRec = s.outRec := rfl
@[simp] theorem hang_rxArea : (hang p s).rxArea = s.rxArea := rfl
@[simp] theorem hang_txBuf : (hang p s).txBuf = s.txBuf := rfl
@[simp] theorem hang_txValid : (hang p s).txValid = s.txValid := rfl
@[simp] theorem hang_rbBuf : (hang p s).rbBuf = s.rbBuf := rfl
@[simp] theorem hang_lastStatus : (hang p s).lastStatus = s.lastStatus := rfl
@[simp] theorem hang_lastPhase : (hang p s).lastPhase = s.lastPhase := rfl
@[simp] theorem hang_lastCode : (hang p s).lastCode = s.lastCode := rfl
@[simp] theorem hang_lastVerify : (hang p s).lastVerify = s.lastVerify := rfl
@[simp] theorem hang_rbCode : (hang p s).rbCode = s.rbCode := rfl
@[simp] theorem hang_lastTerm : (hang p s).lastTerm = s.lastTerm := rfl
@[simp] theorem hang_cmd : (hang p s).cmd = s.cmd := rfl
@[simp] theorem hang_arg : (hang p s).arg = s.arg := rfl
@[simp] theorem hang_boardName : (hang p s).boardName = s.boardName := rfl
@[simp] theorem hang_activity : (hang p s).activity = .hung p := rfl
@[simp] theorem hang_cfg : (hang p s).cfg = s.cfg := rfl
@[simp] theorem hang_hostPort : (hang p s).hostPort = s.hostPort := rfl
@[simp] theorem hang_collab : (hang p s).collab = s.collab := rfl
@[simp] theorem hang_resetLine : (hang p s).resetLine = s.resetLine := rfl
@[simp] theorem hang_ctrlPort : (hang p s).ctrlPort = s.ctrlPort := rfl
@[simp] theorem hang_payloadPort : (hang p s).payloadPort = s.payloadPort := rfl
@[simp] theorem hang_history : (hang p s).history = s.history := rfl
@[simp] theorem hang_draws : (hang p s).draws = s.draws := rfl

end

section
variable (e : Event) (s : State)

@[simp] theorem emit_sess : (emit e s).sess = s.sess := rfl
@[simp] theorem emit_drvH : (emit e s).drvH = s.drvH := rfl
@[simp] theorem emit_chH : (emit e s).chH = s.chH := rfl
@[simp] theorem emit_drvValid : (emit e s).drvValid = s.drvValid := rfl
@[simp] theorem emit_chValid : (emit e s).chValid = s.chValid := rfl
@[simp] theorem emit_busy : (emit e s).busy = s.busy := rfl
@[simp] theorem emit_inRec : (emit e s).inRec = s.inRec := rfl
@[simp] theorem emit_inValid : (emit e s).inValid = s.inValid := rfl
@[simp] theorem emit_outRec : (emit e s).outRec = s.outRec := rfl
@[simp] theorem emit_rxArea : (emit e s).rxArea = s.rxArea := rfl
@[simp] theorem emit_txBuf : (emit e s).txBuf = s.txBuf := rfl
@[simp] theorem emit_txValid : (emit e s).txValid = s.txValid := rfl
@[simp] theorem emit_rbBuf : (emit e s).rbBuf = s.rbBuf := rfl
@[simp] theorem emit_lastStatus : (emit e s).lastStatus = s.lastStatus := rfl
@[simp] theorem emit_lastPhase : (emit e s).lastPhase = s.lastPhase := rfl
@[simp] theorem emit_lastCode : (emit e s).lastCode = s.lastCode := rfl
@[simp] theorem emit_lastVerify : (emit e s).lastVerify = s.lastVerify := rfl
@[simp] theorem emit_rbCode : (emit e s).rbCode = s.rbCode := rfl
@[simp] theorem emit_lastTerm : (emit e s).lastTerm = s.lastTerm := rfl
@[simp] theorem emit_cmd : (emit e s).cmd = s.cmd := rfl
@[simp] theorem emit_arg : (emit e s).arg = s.arg := rfl
@[simp] theorem emit_boardName : (emit e s).boardName = s.boardName := rfl
@[simp] theorem emit_activity : (emit e s).activity = s.activity := rfl
@[simp] theorem emit_cfg : (emit e s).cfg = s.cfg := rfl
@[simp] theorem emit_hostPort : (emit e s).hostPort = s.hostPort := rfl
@[simp] theorem emit_collab : (emit e s).collab = s.collab := rfl
@[simp] theorem emit_resetLine : (emit e s).resetLine = s.resetLine := rfl
@[simp] theorem emit_ctrlPort : (emit e s).ctrlPort = s.ctrlPort := rfl
@[simp] theorem emit_payloadPort : (emit e s).payloadPort = s.payloadPort := rfl
@[simp] theorem emit_history : (emit e s).history = s.history ++ [.event e] := rfl
@[simp] theorem emit_draws : (emit e s).draws = s.draws := rfl

end

section
variable (d : List Byte) (s : State)

@[simp] theorem storeRx_sess : (storeRx d s).sess = s.sess := rfl
@[simp] theorem storeRx_drvH : (storeRx d s).drvH = s.drvH := rfl
@[simp] theorem storeRx_chH : (storeRx d s).chH = s.chH := rfl
@[simp] theorem storeRx_drvValid : (storeRx d s).drvValid = s.drvValid := rfl
@[simp] theorem storeRx_chValid : (storeRx d s).chValid = s.chValid := rfl
@[simp] theorem storeRx_busy : (storeRx d s).busy = s.busy := rfl
@[simp] theorem storeRx_inRec : (storeRx d s).inRec = s.inRec := rfl
@[simp] theorem storeRx_inValid : (storeRx d s).inValid = s.inValid := rfl
@[simp] theorem storeRx_outRec : (storeRx d s).outRec = s.outRec := rfl
@[simp] theorem storeRx_rxArea : (storeRx d s).rxArea = Region.filled (d.take inAreaBytes) s.draws := rfl
@[simp] theorem storeRx_txBuf : (storeRx d s).txBuf = s.txBuf := rfl
@[simp] theorem storeRx_txValid : (storeRx d s).txValid = s.txValid := rfl
@[simp] theorem storeRx_rbBuf : (storeRx d s).rbBuf = s.rbBuf := rfl
@[simp] theorem storeRx_lastStatus : (storeRx d s).lastStatus = s.lastStatus := rfl
@[simp] theorem storeRx_lastPhase : (storeRx d s).lastPhase = s.lastPhase := rfl
@[simp] theorem storeRx_lastCode : (storeRx d s).lastCode = s.lastCode := rfl
@[simp] theorem storeRx_lastVerify : (storeRx d s).lastVerify = s.lastVerify := rfl
@[simp] theorem storeRx_rbCode : (storeRx d s).rbCode = s.rbCode := rfl
@[simp] theorem storeRx_lastTerm : (storeRx d s).lastTerm = s.lastTerm := rfl
@[simp] theorem storeRx_cmd : (storeRx d s).cmd = s.cmd := rfl
@[simp] theorem storeRx_arg : (storeRx d s).arg = s.arg := rfl
@[simp] theorem storeRx_boardName : (storeRx d s).boardName = s.boardName := rfl
@[simp] theorem storeRx_activity : (storeRx d s).activity = s.activity := rfl
@[simp] theorem storeRx_cfg : (storeRx d s).cfg = s.cfg := rfl
@[simp] theorem storeRx_hostPort : (storeRx d s).hostPort = s.hostPort := rfl
@[simp] theorem storeRx_collab : (storeRx d s).collab = s.collab := rfl
@[simp] theorem storeRx_resetLine : (storeRx d s).resetLine = s.resetLine := rfl
@[simp] theorem storeRx_ctrlPort : (storeRx d s).ctrlPort = s.ctrlPort := rfl
@[simp] theorem storeRx_payloadPort : (storeRx d s).payloadPort = s.payloadPort := rfl
@[simp] theorem storeRx_history : (storeRx d s).history = s.history := rfl
@[simp] theorem storeRx_draws : (storeRx d s).draws = s.draws + 1 := rfl

end

section
variable (s : State)

@[simp] theorem voidRx_sess : (voidRx s).sess = s.sess := rfl
@[simp] theorem voidRx_drvH : (voidRx s).drvH = s.drvH := rfl
@[simp] theorem voidRx_chH : (voidRx s).chH = s.chH := rfl
@[simp] theorem voidRx_drvValid : (voidRx s).drvValid = s.drvValid := rfl
@[simp] theorem voidRx_chValid : (voidRx s).chValid = s.chValid := rfl
@[simp] theorem voidRx_busy : (voidRx s).busy = s.busy := rfl
@[simp] theorem voidRx_inRec : (voidRx s).inRec = s.inRec := rfl
@[simp] theorem voidRx_inValid : (voidRx s).inValid = s.inValid := rfl
@[simp] theorem voidRx_outRec : (voidRx s).outRec = s.outRec := rfl
@[simp] theorem voidRx_rxArea : (voidRx s).rxArea = Region.unspecified 8 s.draws := rfl
@[simp] theorem voidRx_txBuf : (voidRx s).txBuf = s.txBuf := rfl
@[simp] theorem voidRx_txValid : (voidRx s).txValid = s.txValid := rfl
@[simp] theorem voidRx_rbBuf : (voidRx s).rbBuf = s.rbBuf := rfl
@[simp] theorem voidRx_lastStatus : (voidRx s).lastStatus = s.lastStatus := rfl
@[simp] theorem voidRx_lastPhase : (voidRx s).lastPhase = s.lastPhase := rfl
@[simp] theorem voidRx_lastCode : (voidRx s).lastCode = s.lastCode := rfl
@[simp] theorem voidRx_lastVerify : (voidRx s).lastVerify = s.lastVerify := rfl
@[simp] theorem voidRx_rbCode : (voidRx s).rbCode = s.rbCode := rfl
@[simp] theorem voidRx_lastTerm : (voidRx s).lastTerm = s.lastTerm := rfl
@[simp] theorem voidRx_cmd : (voidRx s).cmd = s.cmd := rfl
@[simp] theorem voidRx_arg : (voidRx s).arg = s.arg := rfl
@[simp] theorem voidRx_boardName : (voidRx s).boardName = s.boardName := rfl
@[simp] theorem voidRx_activity : (voidRx s).activity = s.activity := rfl
@[simp] theorem voidRx_cfg : (voidRx s).cfg = s.cfg := rfl
@[simp] theorem voidRx_hostPort : (voidRx s).hostPort = s.hostPort := rfl
@[simp] theorem voidRx_collab : (voidRx s).collab = s.collab := rfl
@[simp] theorem voidRx_resetLine : (voidRx s).resetLine = s.resetLine := rfl
@[simp] theorem voidRx_ctrlPort : (voidRx s).ctrlPort = s.ctrlPort := rfl
@[simp] theorem voidRx_payloadPort : (voidRx s).payloadPort = s.payloadPort := rfl
@[simp] theorem voidRx_history : (voidRx s).history = s.history := rfl
@[simp] theorem voidRx_draws : (voidRx s).draws = s.draws + 1 := rfl

end

section
variable (d : List Byte) (s : State)

@[simp] theorem storeRb_sess : (storeRb d s).sess = s.sess := rfl
@[simp] theorem storeRb_drvH : (storeRb d s).drvH = s.drvH := rfl
@[simp] theorem storeRb_chH : (storeRb d s).chH = s.chH := rfl
@[simp] theorem storeRb_drvValid : (storeRb d s).drvValid = s.drvValid := rfl
@[simp] theorem storeRb_chValid : (storeRb d s).chValid = s.chValid := rfl
@[simp] theorem storeRb_busy : (storeRb d s).busy = s.busy := rfl
@[simp] theorem storeRb_inRec : (storeRb d s).inRec = s.inRec := rfl
@[simp] theorem storeRb_inValid : (storeRb d s).inValid = s.inValid := rfl
@[simp] theorem storeRb_outRec : (storeRb d s).outRec = s.outRec := rfl
@[simp] theorem storeRb_rxArea : (storeRb d s).rxArea = s.rxArea := rfl
@[simp] theorem storeRb_txBuf : (storeRb d s).txBuf = s.txBuf := rfl
@[simp] theorem storeRb_txValid : (storeRb d s).txValid = s.txValid := rfl
@[simp] theorem storeRb_rbBuf : (storeRb d s).rbBuf = Region.filled (d.take outAreaBytes) s.draws := rfl
@[simp] theorem storeRb_lastStatus : (storeRb d s).lastStatus = s.lastStatus := rfl
@[simp] theorem storeRb_lastPhase : (storeRb d s).lastPhase = s.lastPhase := rfl
@[simp] theorem storeRb_lastCode : (storeRb d s).lastCode = s.lastCode := rfl
@[simp] theorem storeRb_lastVerify : (storeRb d s).lastVerify = s.lastVerify := rfl
@[simp] theorem storeRb_rbCode : (storeRb d s).rbCode = s.rbCode := rfl
@[simp] theorem storeRb_lastTerm : (storeRb d s).lastTerm = s.lastTerm := rfl
@[simp] theorem storeRb_cmd : (storeRb d s).cmd = s.cmd := rfl
@[simp] theorem storeRb_arg : (storeRb d s).arg = s.arg := rfl
@[simp] theorem storeRb_boardName : (storeRb d s).boardName = s.boardName := rfl
@[simp] theorem storeRb_activity : (storeRb d s).activity = s.activity := rfl
@[simp] theorem storeRb_cfg : (storeRb d s).cfg = s.cfg := rfl
@[simp] theorem storeRb_hostPort : (storeRb d s).hostPort = s.hostPort := rfl
@[simp] theorem storeRb_collab : (storeRb d s).collab = s.collab := rfl
@[simp] theorem storeRb_resetLine : (storeRb d s).resetLine = s.resetLine := rfl
@[simp] theorem storeRb_ctrlPort : (storeRb d s).ctrlPort = s.ctrlPort := rfl
@[simp] theorem storeRb_payloadPort : (storeRb d s).payloadPort = s.payloadPort := rfl
@[simp] theorem storeRb_history : (storeRb d s).history = s.history := rfl
@[simp] theorem storeRb_draws : (storeRb d s).draws = s.draws + 1 := rfl

end

section
variable (s : State)

@[simp] theorem voidRb_sess : (voidRb s).sess = s.sess := rfl
@[simp] theorem voidRb_drvH : (voidRb s).drvH = s.drvH := rfl
@[simp] theorem voidRb_chH : (voidRb s).chH = s.chH := rfl
@[simp] theorem voidRb_drvValid : (voidRb s).drvValid = s.drvValid := rfl
@[simp] theorem voidRb_chValid : (voidRb s).chValid = s.chValid := rfl
@[simp] theorem voidRb_busy : (voidRb s).busy = s.busy := rfl
@[simp] theorem voidRb_inRec : (voidRb s).inRec = s.inRec := rfl
@[simp] theorem voidRb_inValid : (voidRb s).inValid = s.inValid := rfl
@[simp] theorem voidRb_outRec : (voidRb s).outRec = s.outRec := rfl
@[simp] theorem voidRb_rxArea : (voidRb s).rxArea = s.rxArea := rfl
@[simp] theorem voidRb_txBuf : (voidRb s).txBuf = s.txBuf := rfl
@[simp] theorem voidRb_txValid : (voidRb s).txValid = s.txValid := rfl
@[simp] theorem voidRb_rbBuf : (voidRb s).rbBuf = Region.unspecified 8 s.draws := rfl
@[simp] theorem voidRb_lastStatus : (voidRb s).lastStatus = s.lastStatus := rfl
@[simp] theorem voidRb_lastPhase : (voidRb s).lastPhase = s.lastPhase := rfl
@[simp] theorem voidRb_lastCode : (voidRb s).lastCode = s.lastCode := rfl
@[simp] theorem voidRb_lastVerify : (voidRb s).lastVerify = s.lastVerify := rfl
@[simp] theorem voidRb_rbCode : (voidRb s).rbCode = s.rbCode := rfl
@[simp] theorem voidRb_lastTerm : (voidRb s).lastTerm = s.lastTerm := rfl
@[simp] theorem voidRb_cmd : (voidRb s).cmd = s.cmd := rfl
@[simp] theorem voidRb_arg : (voidRb s).arg = s.arg := rfl
@[simp] theorem voidRb_boardName : (voidRb s).boardName = s.boardName := rfl
@[simp] theorem voidRb_activity : (voidRb s).activity = s.activity := rfl
@[simp] theorem voidRb_cfg : (voidRb s).cfg = s.cfg := rfl
@[simp] theorem voidRb_hostPort : (voidRb s).hostPort = s.hostPort := rfl
@[simp] theorem voidRb_collab : (voidRb s).collab = s.collab := rfl
@[simp] theorem voidRb_resetLine : (voidRb s).resetLine = s.resetLine := rfl
@[simp] theorem voidRb_ctrlPort : (voidRb s).ctrlPort = s.ctrlPort := rfl
@[simp] theorem voidRb_payloadPort : (voidRb s).payloadPort = s.payloadPort := rfl
@[simp] theorem voidRb_history : (voidRb s).history = s.history := rfl
@[simp] theorem voidRb_draws : (voidRb s).draws = s.draws + 1 := rfl

end

section
variable (ws : List Word) (s : State)

@[simp] theorem storeIn_sess : (storeIn ws s).sess = s.sess := rfl
@[simp] theorem storeIn_drvH : (storeIn ws s).drvH = s.drvH := rfl
@[simp] theorem storeIn_chH : (storeIn ws s).chH = s.chH := rfl
@[simp] theorem storeIn_drvValid : (storeIn ws s).drvValid = s.drvValid := rfl
@[simp] theorem storeIn_chValid : (storeIn ws s).chValid = s.chValid := rfl
@[simp] theorem storeIn_busy : (storeIn ws s).busy = s.busy := rfl
@[simp] theorem storeIn_inRec : (storeIn ws s).inRec = Region.filled ws s.draws := rfl
@[simp] theorem storeIn_inValid : (storeIn ws s).inValid = true := rfl
@[simp] theorem storeIn_outRec : (storeIn ws s).outRec = s.outRec := rfl
@[simp] theorem storeIn_rxArea : (storeIn ws s).rxArea = s.rxArea := rfl
@[simp] theorem storeIn_txBuf : (storeIn ws s).txBuf = s.txBuf := rfl
@[simp] theorem storeIn_txValid : (storeIn ws s).txValid = s.txValid := rfl
@[simp] theorem storeIn_rbBuf : (storeIn ws s).rbBuf = s.rbBuf := rfl
@[simp] theorem storeIn_lastStatus : (storeIn ws s).lastStatus = s.lastStatus := rfl
@[simp] theorem storeIn_lastPhase : (storeIn ws s).lastPhase = s.lastPhase := rfl
@[simp] theorem storeIn_lastCode : (storeIn ws s).lastCode = s.lastCode := rfl
@[simp] theorem storeIn_lastVerify : (storeIn ws s).lastVerify = s.lastVerify := rfl
@[simp] theorem storeIn_rbCode : (storeIn ws s).rbCode = s.rbCode := rfl
@[simp] theorem storeIn_lastTerm : (storeIn ws s).lastTerm = s.lastTerm := rfl
@[simp] theorem storeIn_cmd : (storeIn ws s).cmd = s.cmd := rfl
@[simp] theorem storeIn_arg : (storeIn ws s).arg = s.arg := rfl
@[simp] theorem storeIn_boardName : (storeIn ws s).boardName = s.boardName := rfl
@[simp] theorem storeIn_activity : (storeIn ws s).activity = s.activity := rfl
@[simp] theorem storeIn_cfg : (storeIn ws s).cfg = s.cfg := rfl
@[simp] theorem storeIn_hostPort : (storeIn ws s).hostPort = s.hostPort := rfl
@[simp] theorem storeIn_collab : (storeIn ws s).collab = s.collab := rfl
@[simp] theorem storeIn_resetLine : (storeIn ws s).resetLine = s.resetLine := rfl
@[simp] theorem storeIn_ctrlPort : (storeIn ws s).ctrlPort = s.ctrlPort := rfl
@[simp] theorem storeIn_payloadPort : (storeIn ws s).payloadPort = s.payloadPort := rfl
@[simp] theorem storeIn_history : (storeIn ws s).history = s.history := rfl
@[simp] theorem storeIn_draws : (storeIn ws s).draws = s.draws + 1 := rfl

end

section
variable (s : State)

@[simp] theorem voidIn_sess : (voidIn s).sess = s.sess := rfl
@[simp] theorem voidIn_drvH : (voidIn s).drvH = s.drvH := rfl
@[simp] theorem voidIn_chH : (voidIn s).chH = s.chH := rfl
@[simp] theorem voidIn_drvValid : (voidIn s).drvValid = s.drvValid := rfl
@[simp] theorem voidIn_chValid : (voidIn s).chValid = s.chValid := rfl
@[simp] theorem voidIn_busy : (voidIn s).busy = s.busy := rfl
@[simp] theorem voidIn_inRec : (voidIn s).inRec = Region.unspecified 16 s.draws := rfl
@[simp] theorem voidIn_inValid : (voidIn s).inValid = false := rfl
@[simp] theorem voidIn_outRec : (voidIn s).outRec = s.outRec := rfl
@[simp] theorem voidIn_rxArea : (voidIn s).rxArea = s.rxArea := rfl
@[simp] theorem voidIn_txBuf : (voidIn s).txBuf = s.txBuf := rfl
@[simp] theorem voidIn_txValid : (voidIn s).txValid = s.txValid := rfl
@[simp] theorem voidIn_rbBuf : (voidIn s).rbBuf = s.rbBuf := rfl
@[simp] theorem voidIn_lastStatus : (voidIn s).lastStatus = s.lastStatus := rfl
@[simp] theorem voidIn_lastPhase : (voidIn s).lastPhase = s.lastPhase := rfl
@[simp] theorem voidIn_lastCode : (voidIn s).lastCode = s.lastCode := rfl
@[simp] theorem voidIn_lastVerify : (voidIn s).lastVerify = s.lastVerify := rfl
@[simp] theorem voidIn_rbCode : (voidIn s).rbCode = s.rbCode := rfl
@[simp] theorem voidIn_lastTerm : (voidIn s).lastTerm = s.lastTerm := rfl
@[simp] theorem voidIn_cmd : (voidIn s).cmd = s.cmd := rfl
@[simp] theorem voidIn_arg : (voidIn s).arg = s.arg := rfl
@[simp] theorem voidIn_boardName : (voidIn s).boardName = s.boardName := rfl
@[simp] theorem voidIn_activity : (voidIn s).activity = s.activity := rfl
@[simp] theorem voidIn_cfg : (voidIn s).cfg = s.cfg := rfl
@[simp] theorem voidIn_hostPort : (voidIn s).hostPort = s.hostPort := rfl
@[simp] theorem voidIn_collab : (voidIn s).collab = s.collab := rfl
@[simp] theorem voidIn_resetLine : (voidIn s).resetLine = s.resetLine := rfl
@[simp] theorem voidIn_ctrlPort : (voidIn s).ctrlPort = s.ctrlPort := rfl
@[simp] theorem voidIn_payloadPort : (voidIn s).payloadPort = s.payloadPort := rfl
@[simp] theorem voidIn_history : (voidIn s).history = s.history := rfl
@[simp] theorem voidIn_draws : (voidIn s).draws = s.draws + 1 := rfl

end

section
variable (bs : List Byte) (s : State)

@[simp] theorem storeTx_sess : (storeTx bs s).sess = s.sess := rfl
@[simp] theorem storeTx_drvH : (storeTx bs s).drvH = s.drvH := rfl
@[simp] theorem storeTx_chH : (storeTx bs s).chH = s.chH := rfl
@[simp] theorem storeTx_drvValid : (storeTx bs s).drvValid = s.drvValid := rfl
@[simp] theorem storeTx_chValid : (storeTx bs s).chValid = s.chValid := rfl
@[simp] theorem storeTx_busy : (storeTx bs s).busy = s.busy := rfl
@[simp] theorem storeTx_inRec : (storeTx bs s).inRec = s.inRec := rfl
@[simp] theorem storeTx_inValid : (storeTx bs s).inValid = s.inValid := rfl
@[simp] theorem storeTx_outRec : (storeTx bs s).outRec = s.outRec := rfl
@[simp] theorem storeTx_rxArea : (storeTx bs s).rxArea = s.rxArea := rfl
@[simp] theorem storeTx_txBuf : (storeTx bs s).txBuf = Region.filled bs s.draws := rfl
@[simp] theorem storeTx_txValid : (storeTx bs s).txValid = true := rfl
@[simp] theorem storeTx_rbBuf : (storeTx bs s).rbBuf = s.rbBuf := rfl
@[simp] theorem storeTx_lastStatus : (storeTx bs s).lastStatus = s.lastStatus := rfl
@[simp] theorem storeTx_lastPhase : (storeTx bs s).lastPhase = s.lastPhase := rfl
@[simp] theorem storeTx_lastCode : (storeTx bs s).lastCode = s.lastCode := rfl
@[simp] theorem storeTx_lastVerify : (storeTx bs s).lastVerify = s.lastVerify := rfl
@[simp] theorem storeTx_rbCode : (storeTx bs s).rbCode = s.rbCode := rfl
@[simp] theorem storeTx_lastTerm : (storeTx bs s).lastTerm = s.lastTerm := rfl
@[simp] theorem storeTx_cmd : (storeTx bs s).cmd = s.cmd := rfl
@[simp] theorem storeTx_arg : (storeTx bs s).arg = s.arg := rfl
@[simp] theorem storeTx_boardName : (storeTx bs s).boardName = s.boardName := rfl
@[simp] theorem storeTx_activity : (storeTx bs s).activity = s.activity := rfl
@[simp] theorem storeTx_cfg : (storeTx bs s).cfg = s.cfg := rfl
@[simp] theorem storeTx_hostPort : (storeTx bs s).hostPort = s.hostPort := rfl
@[simp] theorem storeTx_collab : (storeTx bs s).collab = s.collab := rfl
@[simp] theorem storeTx_resetLine : (storeTx bs s).resetLine = s.resetLine := rfl
@[simp] theorem storeTx_ctrlPort : (storeTx bs s).ctrlPort = s.ctrlPort := rfl
@[simp] theorem storeTx_payloadPort : (storeTx bs s).payloadPort = s.payloadPort := rfl
@[simp] theorem storeTx_history : (storeTx bs s).history = s.history := rfl
@[simp] theorem storeTx_draws : (storeTx bs s).draws = s.draws + 1 := rfl

end

section
variable (s : State)

@[simp] theorem enterActive_sess : (enterActive s).sess = if s.sess = .busOn then .active else s.sess := by unfold enterActive; split <;> rfl
@[simp] theorem enterActive_drvH : (enterActive s).drvH = s.drvH := by unfold enterActive; split <;> rfl
@[simp] theorem enterActive_chH : (enterActive s).chH = s.chH := by unfold enterActive; split <;> rfl
@[simp] theorem enterActive_drvValid : (enterActive s).drvValid = s.drvValid := by unfold enterActive; split <;> rfl
@[simp] theorem enterActive_chValid : (enterActive s).chValid = s.chValid := by unfold enterActive; split <;> rfl
@[simp] theorem enterActive_busy : (enterActive s).busy = s.busy := by unfold enterActive; split <;> rfl
@[simp] theorem enterActive_inRec : (enterActive s).inRec = s.inRec := by unfold enterActive; split <;> rfl
@[simp] theorem enterActive_inValid : (enterActive s).inValid = s.inValid := by unfold enterActive; split <;> rfl
@[simp] theorem enterActive_outRec : (enterActive s).outRec = s.outRec := by unfold enterActive; split <;> rfl
@[simp] theorem enterActive_rxArea : (enterActive s).rxArea = s.rxArea := by unfold enterActive; split <;> rfl
@[simp] theorem enterActive_txBuf : (enterActive s).txBuf = s.txBuf := by unfold enterActive; split <;> rfl
@[simp] theorem enterActive_txValid : (enterActive s).txValid = s.txValid := by unfold enterActive; split <;> rfl
@[simp] theorem enterActive_rbBuf : (enterActive s).rbBuf = s.rbBuf := by unfold enterActive; split <;> rfl
@[simp] theorem enterActive_lastStatus : (enterActive s).lastStatus = s.lastStatus := by unfold enterActive; split <;> rfl
@[simp] theorem enterActive_lastPhase : (enterActive s).lastPhase = s.lastPhase := by unfold enterActive; split <;> rfl
@[simp] theorem enterActive_lastCode : (enterActive s).lastCode = s.lastCode := by unfold enterActive; split <;> rfl
@[simp] theorem enterActive_lastVerify : (enterActive s).lastVerify = s.lastVerify := by unfold enterActive; split <;> rfl
@[simp] theorem enterActive_rbCode : (enterActive s).rbCode = s.rbCode := by unfold enterActive; split <;> rfl
@[simp] theorem enterActive_lastTerm : (enterActive s).lastTerm = s.lastTerm := by unfold enterActive; split <;> rfl
@[simp] theorem enterActive_cmd : (enterActive s).cmd = s.cmd := by unfold enterActive; split <;> rfl
@[simp] theorem enterActive_arg : (enterActive s).arg = s.arg := by unfold enterActive; split <;> rfl
@[simp] theorem enterActive_boardName : (enterActive s).boardName = s.boardName := by unfold enterActive; split <;> rfl
@[simp] theorem enterActive_activity : (enterActive s).activity = s.activity := by unfold enterActive; split <;> rfl
@[simp] theorem enterActive_cfg : (enterActive s).cfg = s.cfg := by unfold enterActive; split <;> rfl
@[simp] theorem enterActive_hostPort : (enterActive s).hostPort = s.hostPort := by unfold enterActive; split <;> rfl
@[simp] theorem enterActive_collab : (enterActive s).collab = s.collab := by unfold enterActive; split <;> rfl
@[simp] theorem enterActive_resetLine : (enterActive s).resetLine = s.resetLine := by unfold enterActive; split <;> rfl
@[simp] theorem enterActive_ctrlPort : (enterActive s).ctrlPort = s.ctrlPort := by unfold enterActive; split <;> rfl
@[simp] theorem enterActive_payloadPort : (enterActive s).payloadPort = s.payloadPort := by unfold enterActive; split <;> rfl
@[simp] theorem enterActive_history : (enterActive s).history = s.history := by unfold enterActive; split <;> rfl
@[simp] theorem enterActive_draws : (enterActive s).draws = s.draws := by unfold enterActive; split <;> rfl

end

section
variable (s : State)

@[simp] theorem dropDrv_sess : (dropDrv s).sess = s.sess := rfl
@[simp] theorem dropDrv_drvH : (dropDrv s).drvH = s.cfg.nullHandle := rfl
@[simp] theorem dropDrv_chH : (dropDrv s).chH = s.chH := rfl
@[simp] theorem dropDrv_drvValid : (dropDrv s).drvValid = false := rfl
@[simp] theorem dropDrv_chValid : (dropDrv s).chValid = s.chValid := rfl
@[simp] theorem dropDrv_busy : (dropDrv s).busy = s.busy := rfl
@[simp] theorem dropDrv_inRec : (dropDrv s).inRec = s.inRec := rfl
@[simp] theorem dropDrv_inValid : (dropDrv s).inValid = s.inValid := rfl
@[simp] theorem dropDrv_outRec : (dropDrv s).outRec = s.outRec := rfl
@[simp] theorem dropDrv_rxArea : (dropDrv s).rxArea = s.rxArea := rfl
@[simp] theorem dropDrv_txBuf : (dropDrv s).txBuf = s.txBuf := rfl
@[simp] theorem dropDrv_txValid : (dropDrv s).txValid = s.txValid := rfl
@[simp] theorem dropDrv_rbBuf : (dropDrv s).rbBuf = s.rbBuf := rfl
@[simp] theorem dropDrv_lastStatus : (dropDrv s).lastStatus = s.lastStatus := rfl
@[simp] theorem dropDrv_lastPhase : (dropDrv s).lastPhase = s.lastPhase := rfl
@[simp] theorem dropDrv_lastCode : (dropDrv s).lastCode = s.lastCode := rfl
@[simp] theorem dropDrv_lastVerify : (dropDrv s).lastVerify = s.lastVerify := rfl
@[simp] theorem dropDrv_rbCode : (dropDrv s).rbCode = s.rbCode := rfl
@[simp] theorem dropDrv_lastTerm : (dropDrv s).lastTerm = s.lastTerm := rfl
@[simp] theorem dropDrv_cmd : (dropDrv s).cmd = s.cmd := rfl
@[simp] theorem dropDrv_arg : (dropDrv s).arg = s.arg := rfl
@[simp] theorem dropDrv_boardName : (dropDrv s).boardName = s.boardName := rfl
@[simp] theorem dropDrv_activity : (dropDrv s).activity = s.activity := rfl
@[simp] theorem dropDrv_cfg : (dropDrv s).cfg = s.cfg := rfl
@[simp] theorem dropDrv_hostPort : (dropDrv s).hostPort = s.hostPort := rfl
@[simp] theorem dropDrv_collab : (dropDrv s).collab = s.collab := rfl
@[simp] theorem dropDrv_resetLine : (dropDrv s).resetLine = s.resetLine := rfl
@[simp] theorem dropDrv_ctrlPort : (dropDrv s).ctrlPort = s.ctrlPort := rfl
@[simp] theorem dropDrv_payloadPort : (dropDrv s).payloadPort = s.payloadPort := rfl
@[simp] theorem dropDrv_history : (dropDrv s).history = s.history := rfl
@[simp] theorem dropDrv_draws : (dropDrv s).draws = s.draws := rfl

end

section
variable (s : State)

@[simp] theorem dropCh_sess : (dropCh s).sess = s.sess := rfl
@[simp] theorem dropCh_drvH : (dropCh s).drvH = s.drvH := rfl
@[simp] theorem dropCh_chH : (dropCh s).chH = s.cfg.nullHandle := rfl
@[simp] theorem dropCh_drvValid : (dropCh s).drvValid = s.drvValid := rfl
@[simp] theorem dropCh_chValid : (dropCh s).chValid = false := rfl
@[simp] theorem dropCh_busy : (dropCh s).busy = s.busy := rfl
@[simp] theorem dropCh_inRec : (dropCh s).inRec = s.inRec := rfl
@[simp] theorem dropCh_inValid : (dropCh s).inValid = s.inValid := rfl
@[simp] theorem dropCh_outRec : (dropCh s).outRec = s.outRec := rfl
@[simp] theorem dropCh_rxArea : (dropCh s).rxArea = s.rxArea := rfl
@[simp] theorem dropCh_txBuf : (dropCh s).txBuf = s.txBuf := rfl
@[simp] theorem dropCh_txValid : (dropCh s).txValid = s.txValid := rfl
@[simp] theorem dropCh_rbBuf : (dropCh s).rbBuf = s.rbBuf := rfl
@[simp] theorem dropCh_lastStatus : (dropCh s).lastStatus = s.lastStatus := rfl
@[simp] theorem dropCh_lastPhase : (dropCh s).lastPhase = s.lastPhase := rfl
@[simp] theorem dropCh_lastCode : (dropCh s).lastCode = s.lastCode := rfl
@[simp] theorem dropCh_lastVerify : (dropCh s).lastVerify = s.lastVerify := rfl
@[simp] theorem dropCh_rbCode : (dropCh s).rbCode = s.rbCode := rfl
@[simp] theorem dropCh_lastTerm : (dropCh s).lastTerm = s.lastTerm := rfl
@[simp] theorem dropCh_cmd : (dropCh s).cmd = s.cmd := rfl
@[simp] theorem dropCh_arg : (dropCh s).arg = s.arg := rfl
@[simp] theorem dropCh_boardName : (dropCh s).boardName = s.boardName := rfl
@[simp] theorem dropCh_activity : (dropCh s).activity = s.activity := rfl
@[simp] theorem dropCh_cfg : (dropCh s).cfg = s.cfg := rfl
@[simp] theorem dropCh_hostPort : (dropCh s).hostPort = s.hostPort := rfl
@[simp] theorem dropCh_collab : (dropCh s).collab = s.collab := rfl
@[simp] theorem dropCh_resetLine : (dropCh s).resetLine = s.resetLine := rfl
@[simp] theorem dropCh_ctrlPort : (dropCh s).ctrlPort = s.ctrlPort := rfl
@[simp] theorem dropCh_payloadPort : (dropCh s).payloadPort = s.payloadPort := rfl
@[simp] theorem dropCh_history : (dropCh s).history = s.history := rfl
@[simp] theorem dropCh_draws : (dropCh s).draws = s.draws := rfl

end

section
variable (h : Handle) (s : State)

@[simp] theorem holdDrv_sess : (holdDrv h s).sess = s.sess := rfl
@[simp] theorem holdDrv_drvH : (holdDrv h s).drvH = h := rfl
@[simp] theorem holdDrv_chH : (holdDrv h s).chH = s.chH := rfl
@[simp] theorem holdDrv_drvValid : (holdDrv h s).drvValid = true := rfl
@[simp] theorem holdDrv_chValid : (holdDrv h s).chValid = s.chValid := rfl
@[simp] theorem holdDrv_busy : (holdDrv h s).busy = s.busy := rfl
@[simp] theorem holdDrv_inRec : (holdDrv h s).inRec = s.inRec := rfl
@[simp] theorem holdDrv_inValid : (holdDrv h s).inValid = s.inValid := rfl
@[simp] theorem holdDrv_outRec : (holdDrv h s).outRec = s.outRec := rfl
@[simp] theorem holdDrv_rxArea : (holdDrv h s).rxArea = s.rxArea := rfl
@[simp] theorem holdDrv_txBuf : (holdDrv h s).txBuf = s.txBuf := rfl
@[simp] theorem holdDrv_txValid : (holdDrv h s).txValid = s.txValid := rfl
@[simp] theorem holdDrv_rbBuf : (holdDrv h s).rbBuf = s.rbBuf := rfl
@[simp] theorem holdDrv_lastStatus : (holdDrv h s).lastStatus = s.lastStatus := rfl
@[simp] theorem holdDrv_lastPhase : (holdDrv h s).lastPhase = s.lastPhase := rfl
@[simp] theorem holdDrv_lastCode : (holdDrv h s).lastCode = s.lastCode := rfl
@[simp] theorem holdDrv_lastVerify : (holdDrv h s).lastVerify = s.lastVerify := rfl
@[simp] theorem holdDrv_rbCode : (holdDrv h s).rbCode = s.rbCode := rfl
@[simp] theorem holdDrv_lastTerm : (holdDrv h s).lastTerm = s.lastTerm := rfl
@[simp] theorem holdDrv_cmd : (holdDrv h s).cmd = s.cmd := rfl
@[simp] theorem holdDrv_arg : (holdDrv h s).arg = s.arg := rfl
@[simp] theorem holdDrv_boardName : (holdDrv h s).boardName = s.boardName := rfl
@[simp] theorem holdDrv_activity : (holdDrv h s).activity = s.activity := rfl
@[simp] theorem holdDrv_cfg : (holdDrv h s).cfg = s.cfg := rfl
@[simp] theorem holdDrv_hostPort : (holdDrv h s).hostPort = s.hostPort := rfl
@[simp] theorem holdDrv_collab : (holdDrv h s).collab = s.collab := rfl
@[simp] theorem holdDrv_resetLine : (holdDrv h s).resetLine = s.resetLine := rfl
@[simp] theorem holdDrv_ctrlPort : (holdDrv h s).ctrlPort = s.ctrlPort := rfl
@[simp] theorem holdDrv_payloadPort : (holdDrv h s).payloadPort = s.payloadPort := rfl
@[simp] theorem holdDrv_history : (holdDrv h s).history = s.history := rfl
@[simp] theorem holdDrv_draws : (holdDrv h s).draws = s.draws := rfl

end

section
variable (h : Handle) (s : State)

@[simp] theorem holdCh_sess : (holdCh h s).sess = .opened := rfl
@[simp] theorem holdCh_drvH : (holdCh h s).drvH = s.drvH := rfl
@[simp] theorem holdCh_chH : (holdCh h s).chH = h := rfl
@[simp] theorem holdCh_drvValid : (holdCh h s).drvValid = s.drvValid := rfl
@[simp] theorem holdCh_chValid : (holdCh h s).chValid = true := rfl
@[simp] theorem holdCh_busy : (holdCh h s).busy = s.busy := rfl
@[simp] theorem holdCh_inRec : (holdCh h s).inRec = s.inRec := rfl
@[simp] theorem holdCh_inValid : (holdCh h s).inValid = s.inValid := rfl
@[simp] theorem holdCh_outRec : (holdCh h s).outRec = s.outRec := rfl
@[simp] theorem holdCh_rxArea : (holdCh h s).rxArea = s.rxArea := rfl
@[simp] theorem holdCh_txBuf : (holdCh h s).txBuf = s.txBuf := rfl
@[simp] theorem holdCh_txValid : (holdCh h s).txValid = s.txValid := rfl
@[simp] theorem holdCh_rbBuf : (holdCh h s).rbBuf = s.rbBuf := rfl
@[simp] theorem holdCh_lastStatus : (holdCh h s).lastStatus = s.lastStatus := rfl
@[simp] theorem holdCh_lastPhase : (holdCh h s).lastPhase = s.lastPhase := rfl
@[simp] theorem holdCh_lastCode : (holdCh h s).lastCode = s.lastCode := rfl
@[simp] theorem holdCh_lastVerify : (holdCh h s).lastVerify = s.lastVerify := rfl
@[simp] theorem holdCh_rbCode : (holdCh h s).rbCode = s.rbCode := rfl
@[simp] theorem holdCh_lastTerm : (holdCh h s).lastTerm = s.lastTerm := rfl
@[simp] theorem holdCh_cmd : (holdCh h s).cmd = s.cmd := rfl
@[simp] theorem holdCh_arg : (holdCh h s).arg = s.arg := rfl
@[simp] theorem holdCh_boardName : (holdCh h s).boardName = s.boardName := rfl
@[simp] theorem holdCh_activity : (holdCh h s).activity = s.activity := rfl
@[simp] theorem holdCh_cfg : (holdCh h s).cfg = s.cfg := rfl
@[simp] theorem holdCh_hostPort : (holdCh h s).hostPort = s.hostPort := rfl
@[simp] theorem holdCh_collab : (holdCh h s).collab = s.collab := rfl
@[simp] theorem holdCh_resetLine : (holdCh h s).resetLine = s.resetLine := rfl
@[simp] theorem holdCh_ctrlPort : (holdCh h s).ctrlPort = s.ctrlPort := rfl
@[simp] theorem holdCh_payloadPort : (holdCh h s).payloadPort = s.payloadPort := rfl
@[simp] theorem holdCh_history : (holdCh h s).history = s.history := rfl
@[simp] theorem holdCh_draws : (holdCh h s).draws = s.draws := rfl

end

section
variable (s : State)

@[simp] theorem hardReset_sess : (hardReset s).sess = .closed := rfl
@[simp] theorem hardReset_drvH : (hardReset s).drvH = s.cfg.nullHandle := rfl
@[simp] theorem hardReset_chH : (hardReset s).chH = s.cfg.nullHandle := rfl
@[simp] theorem hardReset_drvValid : (hardReset s).drvValid = false := rfl
@[simp] theorem hardReset_chValid : (hardReset s).chValid = false := rfl
@[simp] theorem hardReset_busy : (hardReset s).busy = false := rfl
@[simp] theorem hardReset_inRec : (hardReset s).inRec = Region.unspecified 16 s.draws := rfl
@[simp] theorem hardReset_inValid : (hardReset s).inValid = false := rfl
@[simp] theorem hardReset_outRec : (hardReset s).outRec = Region.unspecified 16 (s.draws + 1) := rfl
@[simp] theorem hardReset_rxArea : (hardReset s).rxArea = Region.unspecified 8 (s.draws + 2) := rfl
@[simp] theorem hardReset_txBuf : (hardReset s).txBuf = Region.unspecified 8 (s.draws + 3) := rfl
@[simp] theorem hardReset_txValid : (hardReset s).txValid = false := rfl
@[simp] theorem hardReset_rbBuf : (hardReset s).rbBuf = Region.unspecified 8 (s.draws + 4) := rfl
@[simp] theorem hardReset_lastStatus : (hardReset s).lastStatus = .ok := rfl
@[simp] theorem hardReset_lastPhase : (hardReset s).lastPhase = .none := rfl
@[simp] theorem hardReset_lastCode : (hardReset s).lastCode = 0#32 := rfl
@[simp] theorem hardReset_lastVerify : (hardReset s).lastVerify = .notDone := rfl
@[simp] theorem hardReset_rbCode : (hardReset s).rbCode = 0#32 := rfl
@[simp] theorem hardReset_lastTerm : (hardReset s).lastTerm = false := rfl
@[simp] theorem hardReset_cmd : (hardReset s).cmd = 0#32 := rfl
@[simp] theorem hardReset_arg : (hardReset s).arg = 0#32 := rfl
@[simp] theorem hardReset_boardName : (hardReset s).boardName = [] := rfl
@[simp] theorem hardReset_activity : (hardReset s).activity = .idle := rfl
@[simp] theorem hardReset_cfg : (hardReset s).cfg = s.cfg := rfl
@[simp] theorem hardReset_hostPort : (hardReset s).hostPort = s.hostPort := rfl
@[simp] theorem hardReset_collab : (hardReset s).collab = s.collab := rfl
@[simp] theorem hardReset_resetLine : (hardReset s).resetLine = s.resetLine := rfl
@[simp] theorem hardReset_ctrlPort : (hardReset s).ctrlPort = s.ctrlPort := rfl
@[simp] theorem hardReset_payloadPort : (hardReset s).payloadPort = s.payloadPort := rfl
@[simp] theorem hardReset_history : (hardReset s).history = s.history ++ [.reset] := rfl
@[simp] theorem hardReset_draws : (hardReset s).draws = s.draws + 5 := rfl

end

section
variable (s : State)

@[simp] theorem consumeTx_sess : (consumeTx s).sess = s.sess := rfl
@[simp] theorem consumeTx_drvH : (consumeTx s).drvH = s.drvH := rfl
@[simp] theorem consumeTx_chH : (consumeTx s).chH = s.chH := rfl
@[simp] theorem consumeTx_drvValid : (consumeTx s).drvValid = s.drvValid := rfl
@[simp] theorem consumeTx_chValid : (consumeTx s).chValid = s.chValid := rfl
@[simp] theorem consumeTx_busy : (consumeTx s).busy = s.busy := rfl
@[simp] theorem consumeTx_inRec : (consumeTx s).inRec = s.inRec := rfl
@[simp] theorem consumeTx_inValid : (consumeTx s).inValid = s.inValid := rfl
@[simp] theorem consumeTx_outRec : (consumeTx s).outRec = s.outRec := rfl
@[simp] theorem consumeTx_rxArea : (consumeTx s).rxArea = s.rxArea := rfl
@[simp] theorem consumeTx_txBuf : (consumeTx s).txBuf = s.txBuf := rfl
@[simp] theorem consumeTx_txValid : (consumeTx s).txValid = false := rfl
@[simp] theorem consumeTx_rbBuf : (consumeTx s).rbBuf = s.rbBuf := rfl
@[simp] theorem consumeTx_lastStatus : (consumeTx s).lastStatus = s.lastStatus := rfl
@[simp] theorem consumeTx_lastPhase : (consumeTx s).lastPhase = s.lastPhase := rfl
@[simp] theorem consumeTx_lastCode : (consumeTx s).lastCode = s.lastCode := rfl
@[simp] theorem consumeTx_lastVerify : (consumeTx s).lastVerify = s.lastVerify := rfl
@[simp] theorem consumeTx_rbCode : (consumeTx s).rbCode = s.rbCode := rfl
@[simp] theorem consumeTx_lastTerm : (consumeTx s).lastTerm = s.lastTerm := rfl
@[simp] theorem consumeTx_cmd : (consumeTx s).cmd = s.cmd := rfl
@[simp] theorem consumeTx_arg : (consumeTx s).arg = s.arg := rfl
@[simp] theorem consumeTx_boardName : (consumeTx s).boardName = s.boardName := rfl
@[simp] theorem consumeTx_activity : (consumeTx s).activity = s.activity := rfl
@[simp] theorem consumeTx_cfg : (consumeTx s).cfg = s.cfg := rfl
@[simp] theorem consumeTx_hostPort : (consumeTx s).hostPort = s.hostPort := rfl
@[simp] theorem consumeTx_collab : (consumeTx s).collab = s.collab := rfl
@[simp] theorem consumeTx_resetLine : (consumeTx s).resetLine = s.resetLine := rfl
@[simp] theorem consumeTx_ctrlPort : (consumeTx s).ctrlPort = s.ctrlPort := rfl
@[simp] theorem consumeTx_payloadPort : (consumeTx s).payloadPort = s.payloadPort := rfl
@[simp] theorem consumeTx_history : (consumeTx s).history = s.history := rfl
@[simp] theorem consumeTx_draws : (consumeTx s).draws = s.draws := rfl

end

section
variable (c : Word32) (s : State)

@[simp] theorem noteRbCode_sess : (noteRbCode c s).sess = s.sess := rfl
@[simp] theorem noteRbCode_drvH : (noteRbCode c s).drvH = s.drvH := rfl
@[simp] theorem noteRbCode_chH : (noteRbCode c s).chH = s.chH := rfl
@[simp] theorem noteRbCode_drvValid : (noteRbCode c s).drvValid = s.drvValid := rfl
@[simp] theorem noteRbCode_chValid : (noteRbCode c s).chValid = s.chValid := rfl
@[simp] theorem noteRbCode_busy : (noteRbCode c s).busy = s.busy := rfl
@[simp] theorem noteRbCode_inRec : (noteRbCode c s).inRec = s.inRec := rfl
@[simp] theorem noteRbCode_inValid : (noteRbCode c s).inValid = s.inValid := rfl
@[simp] theorem noteRbCode_outRec : (noteRbCode c s).outRec = s.outRec := rfl
@[simp] theorem noteRbCode_rxArea : (noteRbCode c s).rxArea = s.rxArea := rfl
@[simp] theorem noteRbCode_txBuf : (noteRbCode c s).txBuf = s.txBuf := rfl
@[simp] theorem noteRbCode_txValid : (noteRbCode c s).txValid = s.txValid := rfl
@[simp] theorem noteRbCode_rbBuf : (noteRbCode c s).rbBuf = s.rbBuf := rfl
@[simp] theorem noteRbCode_lastStatus : (noteRbCode c s).lastStatus = s.lastStatus := rfl
@[simp] theorem noteRbCode_lastPhase : (noteRbCode c s).lastPhase = s.lastPhase := rfl
@[simp] theorem noteRbCode_lastCode : (noteRbCode c s).lastCode = s.lastCode := rfl
@[simp] theorem noteRbCode_lastVerify : (noteRbCode c s).lastVerify = s.lastVerify := rfl
@[simp] theorem noteRbCode_rbCode : (noteRbCode c s).rbCode = c := rfl
@[simp] theorem noteRbCode_lastTerm : (noteRbCode c s).lastTerm = s.lastTerm := rfl
@[simp] theorem noteRbCode_cmd : (noteRbCode c s).cmd = s.cmd := rfl
@[simp] theorem noteRbCode_arg : (noteRbCode c s).arg = s.arg := rfl
@[simp] theorem noteRbCode_boardName : (noteRbCode c s).boardName = s.boardName := rfl
@[simp] theorem noteRbCode_activity : (noteRbCode c s).activity = s.activity := rfl
@[simp] theorem noteRbCode_cfg : (noteRbCode c s).cfg = s.cfg := rfl
@[simp] theorem noteRbCode_hostPort : (noteRbCode c s).hostPort = s.hostPort := rfl
@[simp] theorem noteRbCode_collab : (noteRbCode c s).collab = s.collab := rfl
@[simp] theorem noteRbCode_resetLine : (noteRbCode c s).resetLine = s.resetLine := rfl
@[simp] theorem noteRbCode_ctrlPort : (noteRbCode c s).ctrlPort = s.ctrlPort := rfl
@[simp] theorem noteRbCode_payloadPort : (noteRbCode c s).payloadPort = s.payloadPort := rfl
@[simp] theorem noteRbCode_history : (noteRbCode c s).history = s.history := rfl
@[simp] theorem noteRbCode_draws : (noteRbCode c s).draws = s.draws := rfl

end

section
variable (x : Session) (s : State)

@[simp] theorem moveTo_sess : (moveTo x s).sess = x := rfl
@[simp] theorem moveTo_drvH : (moveTo x s).drvH = s.drvH := rfl
@[simp] theorem moveTo_chH : (moveTo x s).chH = s.chH := rfl
@[simp] theorem moveTo_drvValid : (moveTo x s).drvValid = s.drvValid := rfl
@[simp] theorem moveTo_chValid : (moveTo x s).chValid = s.chValid := rfl
@[simp] theorem moveTo_busy : (moveTo x s).busy = s.busy := rfl
@[simp] theorem moveTo_inRec : (moveTo x s).inRec = s.inRec := rfl
@[simp] theorem moveTo_inValid : (moveTo x s).inValid = s.inValid := rfl
@[simp] theorem moveTo_outRec : (moveTo x s).outRec = s.outRec := rfl
@[simp] theorem moveTo_rxArea : (moveTo x s).rxArea = s.rxArea := rfl
@[simp] theorem moveTo_txBuf : (moveTo x s).txBuf = s.txBuf := rfl
@[simp] theorem moveTo_txValid : (moveTo x s).txValid = s.txValid := rfl
@[simp] theorem moveTo_rbBuf : (moveTo x s).rbBuf = s.rbBuf := rfl
@[simp] theorem moveTo_lastStatus : (moveTo x s).lastStatus = s.lastStatus := rfl
@[simp] theorem moveTo_lastPhase : (moveTo x s).lastPhase = s.lastPhase := rfl
@[simp] theorem moveTo_lastCode : (moveTo x s).lastCode = s.lastCode := rfl
@[simp] theorem moveTo_lastVerify : (moveTo x s).lastVerify = s.lastVerify := rfl
@[simp] theorem moveTo_rbCode : (moveTo x s).rbCode = s.rbCode := rfl
@[simp] theorem moveTo_lastTerm : (moveTo x s).lastTerm = s.lastTerm := rfl
@[simp] theorem moveTo_cmd : (moveTo x s).cmd = s.cmd := rfl
@[simp] theorem moveTo_arg : (moveTo x s).arg = s.arg := rfl
@[simp] theorem moveTo_boardName : (moveTo x s).boardName = s.boardName := rfl
@[simp] theorem moveTo_activity : (moveTo x s).activity = s.activity := rfl
@[simp] theorem moveTo_cfg : (moveTo x s).cfg = s.cfg := rfl
@[simp] theorem moveTo_hostPort : (moveTo x s).hostPort = s.hostPort := rfl
@[simp] theorem moveTo_collab : (moveTo x s).collab = s.collab := rfl
@[simp] theorem moveTo_resetLine : (moveTo x s).resetLine = s.resetLine := rfl
@[simp] theorem moveTo_ctrlPort : (moveTo x s).ctrlPort = s.ctrlPort := rfl
@[simp] theorem moveTo_payloadPort : (moveTo x s).payloadPort = s.payloadPort := rfl
@[simp] theorem moveTo_history : (moveTo x s).history = s.history := rfl
@[simp] theorem moveTo_draws : (moveTo x s).draws = s.draws := rfl

end

section
variable (t : Word32) (s : State)

@[simp] theorem loopOn_sess : (loopOn t s).sess = s.sess := rfl
@[simp] theorem loopOn_drvH : (loopOn t s).drvH = s.drvH := rfl
@[simp] theorem loopOn_chH : (loopOn t s).chH = s.chH := rfl
@[simp] theorem loopOn_drvValid : (loopOn t s).drvValid = s.drvValid := rfl
@[simp] theorem loopOn_chValid : (loopOn t s).chValid = s.chValid := rfl
@[simp] theorem loopOn_busy : (loopOn t s).busy = s.busy := rfl
@[simp] theorem loopOn_inRec : (loopOn t s).inRec = s.inRec := rfl
@[simp] theorem loopOn_inValid : (loopOn t s).inValid = s.inValid := rfl
@[simp] theorem loopOn_outRec : (loopOn t s).outRec = s.outRec := rfl
@[simp] theorem loopOn_rxArea : (loopOn t s).rxArea = s.rxArea := rfl
@[simp] theorem loopOn_txBuf : (loopOn t s).txBuf = s.txBuf := rfl
@[simp] theorem loopOn_txValid : (loopOn t s).txValid = s.txValid := rfl
@[simp] theorem loopOn_rbBuf : (loopOn t s).rbBuf = s.rbBuf := rfl
@[simp] theorem loopOn_lastStatus : (loopOn t s).lastStatus = s.lastStatus := rfl
@[simp] theorem loopOn_lastPhase : (loopOn t s).lastPhase = s.lastPhase := rfl
@[simp] theorem loopOn_lastCode : (loopOn t s).lastCode = s.lastCode := rfl
@[simp] theorem loopOn_lastVerify : (loopOn t s).lastVerify = s.lastVerify := rfl
@[simp] theorem loopOn_rbCode : (loopOn t s).rbCode = s.rbCode := rfl
@[simp] theorem loopOn_lastTerm : (loopOn t s).lastTerm = s.lastTerm := rfl
@[simp] theorem loopOn_cmd : (loopOn t s).cmd = s.cmd := rfl
@[simp] theorem loopOn_arg : (loopOn t s).arg = s.arg := rfl
@[simp] theorem loopOn_boardName : (loopOn t s).boardName = s.boardName := rfl
@[simp] theorem loopOn_activity : (loopOn t s).activity = .runLoop t := rfl
@[simp] theorem loopOn_cfg : (loopOn t s).cfg = s.cfg := rfl
@[simp] theorem loopOn_hostPort : (loopOn t s).hostPort = s.hostPort := rfl
@[simp] theorem loopOn_collab : (loopOn t s).collab = s.collab := rfl
@[simp] theorem loopOn_resetLine : (loopOn t s).resetLine = s.resetLine := rfl
@[simp] theorem loopOn_ctrlPort : (loopOn t s).ctrlPort = s.ctrlPort := rfl
@[simp] theorem loopOn_payloadPort : (loopOn t s).payloadPort = s.payloadPort := rfl
@[simp] theorem loopOn_history : (loopOn t s).history = s.history := rfl
@[simp] theorem loopOn_draws : (loopOn t s).draws = s.draws := rfl

end

/-- The state with its collaborator and reset ports at `c` and `l` and its draw counter at `d`: all that taking inputs
of a call or a wait changes. -/
def State.portsAt (s : State) (c : List PortEvent) (l : List ResetInput) (d : Nat) : State :=
  { s with collab := c, resetLine := l, draws := d }

/-- The state with its control port at `cs` and its draw counter at `d`: all that taking a control sample changes. -/
def State.ctrlAt (s : State) (cs : List (BitVec 2)) (d : Nat) : State := { s with ctrlPort := cs, draws := d }

/-- The state with `OUT_REC` and the payload port as a payload sample leaves them. -/
def State.payloadAt (s : State) (o : RegFile) (ps : List (List Word)) : State :=
  { s with outRec := o, payloadPort := ps, draws := s.draws + 1 }

section
variable (s : State) (c : List PortEvent) (l : List ResetInput) (d : Nat)

@[simp] theorem portsAt_sess : (s.portsAt c l d).sess = s.sess := rfl
@[simp] theorem portsAt_drvH : (s.portsAt c l d).drvH = s.drvH := rfl
@[simp] theorem portsAt_chH : (s.portsAt c l d).chH = s.chH := rfl
@[simp] theorem portsAt_drvValid : (s.portsAt c l d).drvValid = s.drvValid := rfl
@[simp] theorem portsAt_chValid : (s.portsAt c l d).chValid = s.chValid := rfl
@[simp] theorem portsAt_busy : (s.portsAt c l d).busy = s.busy := rfl
@[simp] theorem portsAt_inRec : (s.portsAt c l d).inRec = s.inRec := rfl
@[simp] theorem portsAt_inValid : (s.portsAt c l d).inValid = s.inValid := rfl
@[simp] theorem portsAt_outRec : (s.portsAt c l d).outRec = s.outRec := rfl
@[simp] theorem portsAt_rxArea : (s.portsAt c l d).rxArea = s.rxArea := rfl
@[simp] theorem portsAt_txBuf : (s.portsAt c l d).txBuf = s.txBuf := rfl
@[simp] theorem portsAt_txValid : (s.portsAt c l d).txValid = s.txValid := rfl
@[simp] theorem portsAt_rbBuf : (s.portsAt c l d).rbBuf = s.rbBuf := rfl
@[simp] theorem portsAt_lastStatus : (s.portsAt c l d).lastStatus = s.lastStatus := rfl
@[simp] theorem portsAt_lastPhase : (s.portsAt c l d).lastPhase = s.lastPhase := rfl
@[simp] theorem portsAt_lastCode : (s.portsAt c l d).lastCode = s.lastCode := rfl
@[simp] theorem portsAt_lastVerify : (s.portsAt c l d).lastVerify = s.lastVerify := rfl
@[simp] theorem portsAt_rbCode : (s.portsAt c l d).rbCode = s.rbCode := rfl
@[simp] theorem portsAt_lastTerm : (s.portsAt c l d).lastTerm = s.lastTerm := rfl
@[simp] theorem portsAt_cmd : (s.portsAt c l d).cmd = s.cmd := rfl
@[simp] theorem portsAt_arg : (s.portsAt c l d).arg = s.arg := rfl
@[simp] theorem portsAt_boardName : (s.portsAt c l d).boardName = s.boardName := rfl
@[simp] theorem portsAt_activity : (s.portsAt c l d).activity = s.activity := rfl
@[simp] theorem portsAt_cfg : (s.portsAt c l d).cfg = s.cfg := rfl
@[simp] theorem portsAt_hostPort : (s.portsAt c l d).hostPort = s.hostPort := rfl
@[simp] theorem portsAt_collab : (s.portsAt c l d).collab = c := rfl
@[simp] theorem portsAt_resetLine : (s.portsAt c l d).resetLine = l := rfl
@[simp] theorem portsAt_ctrlPort : (s.portsAt c l d).ctrlPort = s.ctrlPort := rfl
@[simp] theorem portsAt_payloadPort : (s.portsAt c l d).payloadPort = s.payloadPort := rfl
@[simp] theorem portsAt_history : (s.portsAt c l d).history = s.history := rfl
@[simp] theorem portsAt_draws : (s.portsAt c l d).draws = d := rfl

end

section
variable (s : State) (cs : List (BitVec 2)) (d : Nat)

@[simp] theorem ctrlAt_sess : (s.ctrlAt cs d).sess = s.sess := rfl
@[simp] theorem ctrlAt_drvH : (s.ctrlAt cs d).drvH = s.drvH := rfl
@[simp] theorem ctrlAt_chH : (s.ctrlAt cs d).chH = s.chH := rfl
@[simp] theorem ctrlAt_drvValid : (s.ctrlAt cs d).drvValid = s.drvValid := rfl
@[simp] theorem ctrlAt_chValid : (s.ctrlAt cs d).chValid = s.chValid := rfl
@[simp] theorem ctrlAt_busy : (s.ctrlAt cs d).busy = s.busy := rfl
@[simp] theorem ctrlAt_inRec : (s.ctrlAt cs d).inRec = s.inRec := rfl
@[simp] theorem ctrlAt_inValid : (s.ctrlAt cs d).inValid = s.inValid := rfl
@[simp] theorem ctrlAt_outRec : (s.ctrlAt cs d).outRec = s.outRec := rfl
@[simp] theorem ctrlAt_rxArea : (s.ctrlAt cs d).rxArea = s.rxArea := rfl
@[simp] theorem ctrlAt_txBuf : (s.ctrlAt cs d).txBuf = s.txBuf := rfl
@[simp] theorem ctrlAt_txValid : (s.ctrlAt cs d).txValid = s.txValid := rfl
@[simp] theorem ctrlAt_rbBuf : (s.ctrlAt cs d).rbBuf = s.rbBuf := rfl
@[simp] theorem ctrlAt_lastStatus : (s.ctrlAt cs d).lastStatus = s.lastStatus := rfl
@[simp] theorem ctrlAt_lastPhase : (s.ctrlAt cs d).lastPhase = s.lastPhase := rfl
@[simp] theorem ctrlAt_lastCode : (s.ctrlAt cs d).lastCode = s.lastCode := rfl
@[simp] theorem ctrlAt_lastVerify : (s.ctrlAt cs d).lastVerify = s.lastVerify := rfl
@[simp] theorem ctrlAt_rbCode : (s.ctrlAt cs d).rbCode = s.rbCode := rfl
@[simp] theorem ctrlAt_lastTerm : (s.ctrlAt cs d).lastTerm = s.lastTerm := rfl
@[simp] theorem ctrlAt_cmd : (s.ctrlAt cs d).cmd = s.cmd := rfl
@[simp] theorem ctrlAt_arg : (s.ctrlAt cs d).arg = s.arg := rfl
@[simp] theorem ctrlAt_boardName : (s.ctrlAt cs d).boardName = s.boardName := rfl
@[simp] theorem ctrlAt_activity : (s.ctrlAt cs d).activity = s.activity := rfl
@[simp] theorem ctrlAt_cfg : (s.ctrlAt cs d).cfg = s.cfg := rfl
@[simp] theorem ctrlAt_hostPort : (s.ctrlAt cs d).hostPort = s.hostPort := rfl
@[simp] theorem ctrlAt_collab : (s.ctrlAt cs d).collab = s.collab := rfl
@[simp] theorem ctrlAt_resetLine : (s.ctrlAt cs d).resetLine = s.resetLine := rfl
@[simp] theorem ctrlAt_ctrlPort : (s.ctrlAt cs d).ctrlPort = cs := rfl
@[simp] theorem ctrlAt_payloadPort : (s.ctrlAt cs d).payloadPort = s.payloadPort := rfl
@[simp] theorem ctrlAt_history : (s.ctrlAt cs d).history = s.history := rfl
@[simp] theorem ctrlAt_draws : (s.ctrlAt cs d).draws = d := rfl

end

section
variable (s : State) (o : RegFile) (ps : List (List Word))

@[simp] theorem payloadAt_sess : (s.payloadAt o ps).sess = s.sess := rfl
@[simp] theorem payloadAt_drvH : (s.payloadAt o ps).drvH = s.drvH := rfl
@[simp] theorem payloadAt_chH : (s.payloadAt o ps).chH = s.chH := rfl
@[simp] theorem payloadAt_drvValid : (s.payloadAt o ps).drvValid = s.drvValid := rfl
@[simp] theorem payloadAt_chValid : (s.payloadAt o ps).chValid = s.chValid := rfl
@[simp] theorem payloadAt_busy : (s.payloadAt o ps).busy = s.busy := rfl
@[simp] theorem payloadAt_inRec : (s.payloadAt o ps).inRec = s.inRec := rfl
@[simp] theorem payloadAt_inValid : (s.payloadAt o ps).inValid = s.inValid := rfl
@[simp] theorem payloadAt_outRec : (s.payloadAt o ps).outRec = o := rfl
@[simp] theorem payloadAt_rxArea : (s.payloadAt o ps).rxArea = s.rxArea := rfl
@[simp] theorem payloadAt_txBuf : (s.payloadAt o ps).txBuf = s.txBuf := rfl
@[simp] theorem payloadAt_txValid : (s.payloadAt o ps).txValid = s.txValid := rfl
@[simp] theorem payloadAt_rbBuf : (s.payloadAt o ps).rbBuf = s.rbBuf := rfl
@[simp] theorem payloadAt_lastStatus : (s.payloadAt o ps).lastStatus = s.lastStatus := rfl
@[simp] theorem payloadAt_lastPhase : (s.payloadAt o ps).lastPhase = s.lastPhase := rfl
@[simp] theorem payloadAt_lastCode : (s.payloadAt o ps).lastCode = s.lastCode := rfl
@[simp] theorem payloadAt_lastVerify : (s.payloadAt o ps).lastVerify = s.lastVerify := rfl
@[simp] theorem payloadAt_rbCode : (s.payloadAt o ps).rbCode = s.rbCode := rfl
@[simp] theorem payloadAt_lastTerm : (s.payloadAt o ps).lastTerm = s.lastTerm := rfl
@[simp] theorem payloadAt_cmd : (s.payloadAt o ps).cmd = s.cmd := rfl
@[simp] theorem payloadAt_arg : (s.payloadAt o ps).arg = s.arg := rfl
@[simp] theorem payloadAt_boardName : (s.payloadAt o ps).boardName = s.boardName := rfl
@[simp] theorem payloadAt_activity : (s.payloadAt o ps).activity = s.activity := rfl
@[simp] theorem payloadAt_cfg : (s.payloadAt o ps).cfg = s.cfg := rfl
@[simp] theorem payloadAt_hostPort : (s.payloadAt o ps).hostPort = s.hostPort := rfl
@[simp] theorem payloadAt_collab : (s.payloadAt o ps).collab = s.collab := rfl
@[simp] theorem payloadAt_resetLine : (s.payloadAt o ps).resetLine = s.resetLine := rfl
@[simp] theorem payloadAt_ctrlPort : (s.payloadAt o ps).ctrlPort = s.ctrlPort := rfl
@[simp] theorem payloadAt_payloadPort : (s.payloadAt o ps).payloadPort = ps := rfl
@[simp] theorem payloadAt_history : (s.payloadAt o ps).history = s.history := rfl
@[simp] theorem payloadAt_draws : (s.payloadAt o ps).draws = s.draws + 1 := rfl

end

section
variable (s : State)

@[simp] theorem visible_sess : s.visible.sess = s.sess := rfl
@[simp] theorem visible_drvValid : s.visible.drvValid = s.drvValid := rfl
@[simp] theorem visible_chValid : s.visible.chValid = s.chValid := rfl
@[simp] theorem visible_busy : s.visible.busy = s.busy := rfl
@[simp] theorem visible_inRec : s.visible.inRec = s.inRec := rfl
@[simp] theorem visible_inValid : s.visible.inValid = s.inValid := rfl
@[simp] theorem visible_outRec : s.visible.outRec = s.outRec := rfl
@[simp] theorem visible_rxArea : s.visible.rxArea = s.rxArea := rfl
@[simp] theorem visible_txBuf : s.visible.txBuf = s.txBuf := rfl
@[simp] theorem visible_txValid : s.visible.txValid = s.txValid := rfl
@[simp] theorem visible_rbBuf : s.visible.rbBuf = s.rbBuf := rfl
@[simp] theorem visible_lastStatus : s.visible.lastStatus = s.lastStatus := rfl
@[simp] theorem visible_lastPhase : s.visible.lastPhase = s.lastPhase := rfl
@[simp] theorem visible_lastCode : s.visible.lastCode = s.lastCode := rfl
@[simp] theorem visible_lastVerify : s.visible.lastVerify = s.lastVerify := rfl
@[simp] theorem visible_rbCode : s.visible.rbCode = s.rbCode := rfl
@[simp] theorem visible_lastTerm : s.visible.lastTerm = s.lastTerm := rfl
@[simp] theorem visible_cmd : s.visible.cmd = s.cmd := rfl
@[simp] theorem visible_arg : s.visible.arg = s.arg := rfl
@[simp] theorem visible_boardName : s.visible.boardName = s.boardName := rfl

end

end Sys2Proof.Machine
end

