-- ==== Sys2Proof/Laws/Ops.lean ====
section
/-! SUPPORT. What each shared operation can do, said once: later proofs cite these lemmas and unfold no operation. -/

namespace Sys2Proof.Machine

/-- A reset point takes an entry of the reset input and changes nothing else. -/
theorem takeReset_cases (s : State) : ∃ r l, takeReset s = (r, s.portsAt s.collab l s.draws) := by
  unfold takeReset
  split
  · exact ⟨.quiet, s.resetLine, rfl⟩
  · next r rest _ => exact ⟨r, rest, rfl⟩

/-- With nothing on the reset input a reset point is quiet. -/
theorem takeReset_nil {s : State} (hr : s.resetLine = []) : takeReset s = (.quiet, s) := by
  simp only [takeReset, hr]

/-- Taking an answer changes the answers to come and the draw counter, nothing else. -/
theorem takeAnswer_cases (s : State) :
    ∃ e c d, takeAnswer s = (e, s.portsAt c s.resetLine d) ∧ (e = .silence → d = s.draws) := by
  unfold takeAnswer
  split
  · exact ⟨_, s.collab, s.draws + 1, rfl, fun h => nomatch h⟩
  · next e rest _ => exact ⟨e, rest, s.draws, rfl, fun _ => rfl⟩

/-- All that a reset point can end in: the command goes on, or it is abandoned. -/
theorem orReset_elim {P : State → Prop} {s : State} {k : State → State}
    (quiet : ∀ l, P (k (s.portsAt s.collab l s.draws)))
    (abandoned : ∀ l, P (hardReset (s.portsAt s.collab l s.draws))) : P (orReset s k) := by
  obtain ⟨r, l, hr⟩ := takeReset_cases s
  unfold orReset
  rw [hr]
  cases r with
  | quiet => exact quiet l
  | before => exact abandoned l
  | during => exact abandoned l

/-- A reset point with nothing on the reset input. -/
theorem orReset_quiet {s : State} {k : State → State} (hr : s.resetLine = []) : orReset s k = k s := by
  simp only [orReset, takeReset_nil hr]

/-- The end of a command with nothing on the reset input: it responds. -/
theorem endCommand_quiet {r : Reply} {s : State} (hr : s.resetLine = []) : endCommand r s = respond r s :=
  orReset_quiet hr

/-- An event with nothing on the reset input. -/
theorem emitThen_quiet {e : Event} {s : State} {k : State → State} (hr : s.resetLine = []) :
    emitThen e s k = k (emit e s) := orReset_quiet hr

/-- A poll with nothing on the reset input. -/
theorem pollThen_quiet {s : State} {k : Signal → State → State} (hr : s.resetLine = []) :
    pollThen s k = k (pollControl s).1 (pollControl s).2 := orReset_quiet hr

/-- All that a collaborator call can end in: a reset before or after the request, silence, or an answer with which the
command goes on. -/
theorem callThen_elim {P : State → Prop} {p : Primitive} {s : State} {k : Answer → State → State}
    (before : ∀ l, P (hardReset (s.portsAt s.collab l s.draws)))
    (during : ∀ c l d, P (hardReset ((s.portsAt c l d).observe (.call p none s.visible))))
    (silent : ∀ c l, P (hang p ((s.portsAt c l s.draws).observe (.call p none s.visible))))
    (answered : ∀ a c l d, P (k a ((s.portsAt c l d).observe (.call p (some a) s.visible)))) :
    P (callThen p s k) := by
  obtain ⟨r, l, hr⟩ := takeReset_cases s
  obtain ⟨e, c, d, ha, hd⟩ := takeAnswer_cases (s.portsAt s.collab l s.draws)
  unfold callThen
  rw [hr]
  cases r with
  | before => exact before l
  | during => simp only [ha]; exact during c l d
  | quiet =>
    simp only [ha]
    cases e with
    | answer a => exact answered a c l d
    | silence => rw [hd rfl]; exact silent c l

/-- A call whose answer is the next one on the port, with no reset: the command goes on with that answer. -/
theorem callThen_answered {p : Primitive} {s : State} {k : Answer → State → State} {a : Answer}
    {rest : List PortEvent} (hr : s.resetLine = []) (hc : s.collab = .answer a :: rest) :
    callThen p s k = k a ((s.portsAt rest [] s.draws).observe (.call p (some a) s.visible)) := by
  simp only [callThen, takeReset, hr, takeAnswer, hc]
  rw [← hr]
  rfl

/-- A call whose answer nobody has scripted, with no reset: the command goes on with a free answer. -/
theorem callThen_free {p : Primitive} {s : State} {k : Answer → State → State}
    (hr : s.resetLine = []) (hc : s.collab = []) :
    callThen p s k =
      k (Answer.free s.cfg s.draws)
        ((s.portsAt [] [] (s.draws + 1)).observe (.call p (some (Answer.free s.cfg s.draws)) s.visible)) := by
  simp only [callThen, takeReset, hr, takeAnswer, hc]
  rw [State.portsAt, ← hr, ← hc]
  rfl

theorem cooperative_iff (s : State) :
    s.cooperative = true ↔ (∀ e ∈ s.collab, e.isAnswer = true) ∧ ∀ r ∈ s.resetLine, r = .quiet := by
  simp [State.cooperative]

@[simp] theorem cooperative_observe (s : State) (o : Obs) : (s.observe o).cooperative = s.cooperative := rfl

/-- Under a cooperative environment a reset point is quiet. -/
theorem takeReset_of_cooperative {s : State} (hs : s.cooperative = true) :
    ∃ l, takeReset s = (.quiet, s.portsAt s.collab l s.draws) ∧ ∀ r ∈ l, r = .quiet := by
  have hr := ((cooperative_iff s).mp hs).2
  unfold takeReset
  split
  · next h => exact ⟨[], by rw [← h]; rfl, by simp⟩
  · next r rest h =>
    rw [h] at hr
    exact ⟨rest, by rw [hr r (List.mem_cons_self ..)]; rfl, fun x hx => hr x (List.mem_cons_of_mem _ hx)⟩

/-- A reset point under a cooperative environment: the command goes on, and the environment stays cooperative. -/
theorem orReset_of_cooperative {P : State → Prop} {s : State} {k : State → State} (hs : s.cooperative = true)
    (quiet : ∀ l, (s.portsAt s.collab l s.draws).cooperative = true → P (k (s.portsAt s.collab l s.draws))) :
    P (orReset s k) := by
  obtain ⟨l, htr, hl⟩ := takeReset_of_cooperative hs
  unfold orReset
  rw [htr]
  exact quiet l ((cooperative_iff _).mpr ⟨((cooperative_iff s).mp hs).1, hl⟩)

/-- A call under a cooperative environment always comes to an answer, and the environment stays cooperative. -/
theorem callThen_of_cooperative {P : State → Prop} {p : Primitive} {s : State} {k : Answer → State → State}
    (hs : s.cooperative = true)
    (answered : ∀ a c l d, (s.portsAt c l d).cooperative = true →
      P (k a ((s.portsAt c l d).observe (.call p (some a) s.visible)))) :
    P (callThen p s k) := by
  obtain ⟨hc, hr⟩ := (cooperative_iff s).mp hs
  obtain ⟨l, htr, hl⟩ := takeReset_of_cooperative hs
  have ha : ∃ a c d, takeAnswer (s.portsAt s.collab l s.draws) = (.answer a, s.portsAt c l d) ∧
      ∀ e ∈ c, e.isAnswer = true := by
    unfold takeAnswer
    split
    · next h =>
      rw [portsAt_collab] at h
      exact ⟨_, [], s.draws + 1, by rw [← h]; rfl, by simp⟩
    · next e rest h =>
      rw [portsAt_collab] at h
      rw [h] at hc
      cases e with
      | answer a => exact ⟨a, rest, s.draws, rfl, fun x hx => hc x (List.mem_cons_of_mem _ hx)⟩
      | silence => exact absurd (hc _ (List.mem_cons_self ..)) (by simp [PortEvent.isAnswer])
  obtain ⟨a, c, d, hta, hcc⟩ := ha
  unfold callThen
  rw [htr]
  simp only [hta]
  exact answered a c l d ((cooperative_iff _).mpr ⟨hcc, hl⟩)

/-- All that the pacing wait can end in: the command goes on, or a reset. -/
theorem waitThen_elim {P : State → Prop} {s : State} {k : State → State}
    (waited : ∀ l, P (k ((s.portsAt s.collab l s.draws).observe (.wait s.cfg.pacingMs))))
    (before : ∀ l, P (hardReset (s.portsAt s.collab l s.draws)))
    (during : ∀ l, P (hardReset ((s.portsAt s.collab l s.draws).observe (.wait s.cfg.pacingMs)))) :
    P (waitThen s k) := by
  obtain ⟨r, l, hr⟩ := takeReset_cases s
  unfold waitThen
  rw [hr]
  cases r with
  | quiet => exact waited l
  | before => exact before l
  | during => exact during l

/-- The pacing wait under a cooperative environment. -/
theorem waitThen_of_cooperative {P : State → Prop} {s : State} {k : State → State} (hs : s.cooperative = true)
    (waited : ∀ l, (s.portsAt s.collab l s.draws).cooperative = true →
      P (k ((s.portsAt s.collab l s.draws).observe (.wait s.cfg.pacingMs)))) : P (waitThen s k) := by
  obtain ⟨l, htr, hl⟩ := takeReset_of_cooperative hs
  unfold waitThen
  rw [htr]
  exact waited l ((cooperative_iff _).mpr ⟨((cooperative_iff s).mp hs).1, hl⟩)

/-- The pacing wait with no reset: nothing changes but the history. -/
theorem waitThen_quiet {s : State} {k : State → State} (hr : s.resetLine = []) :
    waitThen s k = k (s.observe (.wait s.cfg.pacingMs)) := by
  simp only [waitThen, takeReset, hr]

/-- The poll changes the control port, the draw counter and the history, nothing else (R183). -/
theorem pollControl_cases (s : State) :
    ∃ ctrl cs d, pollControl s = (signalOf ctrl, (s.ctrlAt cs d).observe (.poll ctrl)) := by
  unfold pollControl
  split
  · exact ⟨_, s.ctrlPort, s.draws + 1, rfl⟩
  · next c rest _ => exact ⟨c, rest, s.draws, rfl⟩

/-- A scripted poll gives the signal its value stands for (R106, R183). -/
theorem pollControl_cons {s : State} {c : BitVec 2} {rest : List (BitVec 2)} (h : s.ctrlPort = c :: rest) :
    pollControl s = (signalOf c, (s.ctrlAt rest s.draws).observe (.poll c)) := by
  simp only [pollControl, h]
  rfl

/-- A payload sample fills `OUT_REC` and changes nothing else (R184). -/
theorem loadPayload_cases (s : State) :
    ∃ (ws : List Word) (ps : List (List Word)), loadPayload s = s.payloadAt (Region.filled (ws.take s.cfg.outNamedWords) s.draws) ps := by
  cases h : s.payloadPort with
  | nil => exact ⟨[], s.payloadPort, by simp only [loadPayload, takePayload, h]; rw [← h]; rfl⟩
  | cons ws rest => exact ⟨ws, rest, by simp only [loadPayload, takePayload, h]; rfl⟩

theorem loadPayload_cons {s : State} {ws : List Word} {rest : List (List Word)} (h : s.payloadPort = ws :: rest) :
    loadPayload s = s.payloadAt (Region.filled (ws.take s.cfg.outNamedWords) s.draws) rest := by
  simp only [loadPayload, takePayload, h]
  rfl

theorem ready_iff (s : State) : s.ready = true ↔ s.sess = .busOn ∨ s.sess = .active := by
  simp [State.ready]

/-- With no handle held the release issues nothing (R149 (a)). -/
theorem releaseThen_none {s : State} {k : State → State} (hc : s.chValid = false) (hd : s.drvValid = false) :
    releaseThen s k = k s := by
  simp [releaseThen, releaseDrvThen, hc, hd]

/-- With a channel handle held the release is the channel close, then that of the driver handle (R143). -/
theorem releaseThen_channel {s : State} {k : State → State} (hc : s.chValid = true) :
    releaseThen s k =
      callThen (.chClose s.chH) s fun _ s => releaseDrvThen (dropCh s) k := by
  simp [releaseThen, hc]

end Sys2Proof.Machine
end

