-- ==== Sys2Proof/Laws/PerInstr.lean ====
section
/-! SUPPORT. Statements made for every command, one lemma a constructor. -/

namespace Sys2Proof.Laws.LegalFrame

/-- The frame of the command is legal (R100, R101). -/
def Statement (i : Instr) : Prop := (encodeInstr i).legal = true

theorem decode (len : Word32) : Statement (.decode len) := by
  show legalWords.contains (0#23 ++ BitVec.ofBool false ++ 0x01#8) = true
  decide

theorem encode : Statement .encode := by
  show legalWords.contains (0#23 ++ BitVec.ofBool false ++ 0x02#8) = true
  decide

theorem openCh : Statement .openCh := by
  show legalWords.contains (0#23 ++ BitVec.ofBool false ++ 0x10#8) = true
  decide

theorem negotiate : Statement .negotiate := by
  show legalWords.contains (0#23 ++ BitVec.ofBool false ++ 0x11#8) = true
  decide

theorem close : Statement .close := by
  show legalWords.contains (0#23 ++ BitVec.ofBool false ++ 0x12#8) = true
  decide

theorem read (t : Word32) : Statement (.read t) := by
  show legalWords.contains (0#23 ++ BitVec.ofBool false ++ 0x20#8) = true
  decide

theorem write (v : Bool) (t : Word32) : Statement (.write v t) := by
  show legalWords.contains (0#23 ++ BitVec.ofBool v ++ 0x21#8) = true
  revert v
  decide

theorem tick (t : Word32) : Statement (.tick t) := by
  show legalWords.contains (0#23 ++ BitVec.ofBool false ++ 0x30#8) = true
  decide

theorem run (t : Word32) : Statement (.run t) := by
  show legalWords.contains (0#23 ++ BitVec.ofBool false ++ 0x31#8) = true
  decide

end Sys2Proof.Laws.LegalFrame
end

