-- ==== Sys2Proof/Tests/Slice0.lean ====
section
/-! SUPPORT. Tests. Every expected result is the spec's (the vectors V-C, V-L, V-I, V-S, V-D of `95_test_vectors.md`,
or a rule it names). After them, one witness for each obligation that has hypotheses. -/

namespace Sys2Proof.Tests

open Sys2Proof Sys2Proof.Machine

/-- The reference instance, with room for 6 bytes in `BOARD_NAME`. -/
def inst : Config := { Config.reference with boardNameMax := 6 }

/-- An instance whose record fills the slot exactly: 244 named bytes. -/
def full : Config := { inst with nView := 1, seqLen := 53 }

/-- The smallest instance whose record does not fit: 248 named bytes. -/
def tooBig : Config := { inst with nView := 1, seqLen := 54 }

/-- An instance right after reset. -/
def blank : State := State.cleared inst 0

/-- Session state `x` with the handles of the vectors. -/
def held (x : Session) : State :=
  { blank with sess := x, drvH := 0x1000, chH := 0x2000, drvValid := true, chValid := true }

/-- An answer of the collaborator. -/
def ans (code : Word32) (data : List Byte := []) : Answer := { code := code, data := data }

/-- An answer that gives a handle. -/
def hnd (h : Handle) : Answer := { h := h }

/-- `s` with these answers to come. -/
def State.given (s : State) (as : List Answer) : State := { s with collab := as.map .answer }

/-- The next state. -/
def after : Host.Outcome State Fault Refusal → Option State
  | .next t => some t
  | .fault _ => none
  | .refused _ => none

/-- A value of the next state. -/
def get {α : Type} (o : Host.Outcome State Fault Refusal) (f : State → α) : Option α := (after o).map f

/-- The response word of the next state. -/
def rsp (o : Host.Outcome State Fault Refusal) : Option Word32 := get o fun t => t.visible.rsp

/-- The primitive of a history entry. -/
def primOf : Obs → Option Primitive
  | .call p _ _ => some p
  | _ => none

/-- The primitives issued so far. -/
def prims (s : State) : List Primitive := s.history.filterMap primOf

/-- An encoded record whose first word is 7. -/
def encoded (s : State) : State := { s with txBuf := Region.filled (7#8 :: List.replicate 243 0#8) 0, txValid := true }

/-! ### Checks on frames and instances -/

/-- V-D2: an unassigned operation code is refused by its check. -/
theorem test_unassigned_opcode_refused :
    Frame.legal ⟨0x00000003#32, 0#32⟩ = false ∧ decodeFrame ⟨0x00000003#32, 0#32⟩ = .error .unassignedOpcode := by
  decide

/-- V-D2: a reserved bit is refused by its check. -/
theorem test_reserved_bit_refused :
    Frame.legal ⟨0x80000010#32, 0#32⟩ = false ∧ decodeFrame ⟨0x80000010#32, 0#32⟩ = .error .reservedBits := by
  decide

/-- V-D2: the verify flag on DECODE is refused by its check. -/
theorem test_stray_verify_flag_refused :
    Frame.legal ⟨0x00000101#32, 0#32⟩ = false ∧ decodeFrame ⟨0x00000101#32, 0#32⟩ = .error .strayVerifyFlag := by
  decide

/-- R97, V-C10: the size check accepts `SEQ_LEN` = 8 and 13 and refuses 14 and 16. -/
theorem test_size_check :
    [8, 13, 14, 16].map (fun n => Config.sizeOk { inst with seqLen := n }) = [true, true, false, false] := by decide

/-- V-D3: the neighbours of WRITE. -/
theorem test_write_neighbours :
    [0x23#32, 0x25#32, 0x29#32, 0x61#32, 0xA1#32, 0x221#32].all (fun w => !Frame.legal ⟨w, 0#32⟩) = true ∧
      decodeFrame ⟨0x31#32, 5#32⟩ = .ok (.run 5#32) := by decide

/-! ### Decoding: every command from its word (R100, R110) -/

theorem test_decode_decode : decodeFrame ⟨0x00000001#32, 0x000001E8#32⟩ = .ok (.decode 488#32) := by decide
theorem test_decode_encode : decodeFrame ⟨0x00000002#32, 0#32⟩ = .ok .encode := by decide
theorem test_decode_open : decodeFrame ⟨0x00000010#32, 0#32⟩ = .ok .openCh := by decide
theorem test_decode_negotiate : decodeFrame ⟨0x00000011#32, 0#32⟩ = .ok .negotiate := by decide
theorem test_decode_close : decodeFrame ⟨0x00000012#32, 0#32⟩ = .ok .close := by decide
theorem test_decode_read : decodeFrame ⟨0x00000020#32, 0x000001F4#32⟩ = .ok (.read 500#32) := by decide
theorem test_decode_write : decodeFrame ⟨0x00000021#32, 0x000001F4#32⟩ = .ok (.write false 500#32) := by decide
theorem test_decode_write_verify : decodeFrame ⟨0x00000121#32, 0x000001F4#32⟩ = .ok (.write true 500#32) := by decide
theorem test_decode_tick : decodeFrame ⟨0x00000030#32, 0x000001F4#32⟩ = .ok (.tick 500#32) := by decide
theorem test_decode_run : decodeFrame ⟨0x00000031#32, 0x000001F4#32⟩ = .ok (.run 500#32) := by decide

/-- The table's numbering: `CMD` is bits 31 to 0, `ARG` bits 63 to 32, bits from `nbits` on are 0. -/
theorem test_table_word :
    decodeTableWord 64 0x000001F400000121 = some (.write true 500#32) ∧
      decodeTableWord 32 0x000001F400000121 = some (.write true 0#32) ∧ decodeTableWord 64 0x122 = none := by decide

/-- A placed word is the command the next step runs: CLOSE right after reset responds `Ok` (V-L9). -/
theorem test_placed_word_runs :
    rsp (step (State.reset.withFetchWord 64 0x12)) = some 0#32 ∧
      rsp (step (State.reset.withFetchWord 64 0x13)) = some 0x81#32 := by decide

/-! ### Codec -/

/-- V-C1: `interval2` = 20 and the third element of `setpoint2` = 3, in both byte orders. -/
theorem test_decode_source_example :
    get (exec (.decode 488#32)
      { blank with rxArea := ⟨[(18, 0x14#8), (19, 0#8), (52, 3#8), (53, 0#8)], 0⟩ })
      (fun t => (t.inField (.scalar .interval2), t.inField (.setpoint 2 2), t.inValid)) =
        some (some 20#16, some 3#16, true) ∧
    get (exec (.decode 244#32)
      { blank with cfg := { inst with byteOrder := .big }, rxArea := ⟨[(18, 0#8), (19, 0x14#8)], 0⟩ })
      (fun t => t.inField (.scalar .interval2)) = some (some 20#16) := by decide

/-- V-C4, V-C5, V-C6: the lengths at the bounds. -/
theorem test_decode_lengths :
    [0#32, 243#32, 244#32, 300#32, 488#32, 489#32, 0xFFFFFFFF#32].map (fun n => rsp (exec (.decode n) blank)) =
      [some 5#32, some 5#32, some 0#32, some 0#32, some 0#32, some 0x80#32, some 0x80#32] := by decide

/-- V-C7: the ramp's first words lie low byte first; after the last named word come pad bytes. -/
theorem test_encode_ramp :
    get (exec .encode { blank with outRec := ⟨[(0, 0xA000#16), (1, 0xA001#16)], 0⟩ })
      (fun t => ([0, 1, 2, 3].map t.txBuf.read, t.txValid)) =
        some ([0x00#8, 0xA0#8, 0x01#8, 0xA0#8], true) ∧
    [158, 159, 160, 243].map (encodedByte inst ⟨[(79, 0xA04F#16)], 0⟩) = [0x4F#8, 0xA0#8, 0#8, 0#8] := by decide

/-- V-C10: `SEQ_LEN` = 16 overflows. -/
theorem test_encode_overflow :
    get (exec .encode { blank with cfg := { inst with seqLen := 16 }, txValid := true })
      (fun t => (t.visible.rsp, t.txValid)) = some (6#32, false) := by decide

/-! ### Session lifecycle -/

/-- V-L1. -/
theorem test_open_succeeds :
    get (exec .openCh (State.given blank [hnd 0x1000, hnd 0x2000]))
      (fun t => (t.visible.rsp, t.drvH, t.chH, prims t)) =
        some (0x1000#32, 0x1000, 0x2000, [.drvOpen, .chOpen 0x1000 [] 0]) := by decide

/-- V-L4: a null channel handle closes the driver handle. -/
theorem test_open_null_channel_handle :
    get (exec .openCh (State.given blank [hnd 0x1000, hnd 0, ans 0#32]))
      (fun t => (t.visible.rsp, t.drvValid, prims t)) =
        some (0x201#32, false, [.drvOpen, .chOpen 0x1000 [] 0, .drvClose 0x1000]) := by decide

/-- V-L5. -/
theorem test_negotiate_succeeds :
    get (exec .negotiate (State.given (held .opened) [ans 0#32, ans 0#32])) (fun t => (t.visible.rsp, prims t)) =
      some (0x3000#32, [.setHostState 0x2000 1 1000#32, .setBusState 0x2000 1 1000#32]) := by decide

/-- V-L7. -/
theorem test_negotiate_fails_in_bus_phase :
    get (exec .negotiate (State.given (held .opened) [ans 0#32, ans 0x800C0012#32, ans 0#32, ans 0#32]))
      (fun t => (t.visible.rsp, t.lastCode, (prims t).drop 2)) =
        some (0x202#32, 0x800C0012#32, [.chClose 0x2000, .drvClose 0x1000]) := by decide

/-- V-L9: CLOSE, and a second one. -/
theorem test_close :
    get (exec .close (State.given (held .active) [ans 0#32, ans 0#32])) (fun t => (t.visible.rsp, prims t)) =
      some (0#32, [.chClose 0x2000, .drvClose 0x1000]) ∧
    get (exec .close blank) (fun t => (t.visible.rsp, prims t)) = some (0#32, []) := by decide

/-! ### Session I/O -/

/-- V-I1, V-I2. -/
theorem test_read :
    get (exec (.read 500#32) (State.given (held .busOn) [ans 0#32 [1#8, 2#8]]))
      (fun t => (t.visible.rsp, t.rxArea.read 1, prims t)) =
        some (0x4000#32, 2#8, [.chRead 0x2000 0 0 488 500#32]) ∧
    get (exec (.read 500#32) (State.given (held .busOn) [ans 0xC000000D#32]))
      (fun t => (t.visible.rsp, t.lastCode, t.chValid)) = some (0x3003#32, 0xC000000D#32, true) := by decide

/-- V-I5, V-I6, V-I7: the three outcomes of a read-back. -/
theorem test_write_verify :
    [ans 0#32 [7#8, 0#8, 0#8, 0#8, 9#8], ans 0#32 [8#8, 0#8, 0#8, 0#8], ans 0xC000000D#32].map (fun a =>
      get (exec (.write true 500#32) (State.given (encoded (held .active)) [ans 0#32, a]))
        (fun t => (t.visible.rsp, t.rbCode, t.txValid))) =
      [some (0x4400#32, 0#32, false), some (0x4800#32, 0#32, false), some (0x4C00#32, 0xC000000D#32, false)] := by
  decide

/-- V-I8, V-I9. -/
theorem test_write_fails :
    get (exec (.write true 500#32) (State.given (encoded (held .busOn)) [ans 0x800C0021#32]))
      (fun t => (t.visible.rsp, t.lastCode, t.txValid, t.seen Obs.isCall)) =
        some (0x3004#32, 0x800C0021#32, false, 1) ∧
    get (exec (.write false 500#32) (encoded (held .opened))) (fun t => (t.visible.rsp, t.txValid)) =
      some (0x1080#32, true) := by decide

/-! ### Exchange sequencer -/

/-- V-S2, V-S6: a failed read is a warning, and `CTRL` = 3 goes on to the wait. -/
theorem test_tick_read_fails :
    get (exec (.tick 500#32) { State.given (held .active) [ans 0xC000000D#32] with ctrlPort := [3#2] })
      (fun t => (t.visible.rsp, t.inValid, (t.history.drop 1).take 3)) =
        some (0x4000#32, false,
          [.event (.warn .readFailed .none 0xC000000D#32), .poll 3#2, .wait 3000#32]) := by decide

/-- V-S3: a tick that writes; the payload's first word lies in `TX_BUF` and the read-back matches it. -/
theorem test_tick_writes :
    get (exec (.tick 500#32)
      { State.given (held .active) [ans 0#32, ans 0#32, ans 0#32 [7#8, 0#8, 1#8, 0#8]] with
        ctrlPort := [1#2], payloadPort := [[7#16, 1#16]] })
      (fun t => (t.visible.rsp, t.txBuf.read 0, t.txBuf.read 2, t.txValid, t.seen Obs.isCall)) =
        some (0x4400#32, 7#8, 1#8, false, 3) := by decide

/-- V-S8. -/
theorem test_run_terminates :
    get (exec (.run 500#32)
      { State.given (held .busOn) [ans 0#32, ans 0#32, ans 0#32] with ctrlPort := [2#2] })
      (fun t => (t.visible.rsp, prims t)) =
        some (0x8000#32, [.chRead 0x2000 0 0 488 500#32, .chClose 0x2000, .drvClose 0x1000]) := by decide

/-- V-S9. -/
theorem test_run_refused :
    get (exec (.run 500#32) (State.given (held .opened) [ans 0#32, ans 0#32])) (fun t => (t.visible.rsp, prims t)) =
      some (0x80#32, [.chClose 0x2000, .drvClose 0x1000]) := by decide

/-! ### Ports, reset, parameters -/

/-- R240: the answer to a request that is outstanding when the reset comes is dropped; the next one stays. -/
theorem test_reset_drops_the_outstanding_answer :
    get (exec .close { State.given (held .active) [ans 1#32, ans 2#32] with resetLine := [.during] })
      (fun t => (t.sess, t.chValid, t.collab, prims t, t.seen Obs.isResponse)) =
        some (.closed, false, [.answer (ans 2#32)], [.chClose 0x2000], 0) := by decide

/-- R26 with D20: a write that is never answered has cleared `TX_VALID`. -/
theorem test_write_clears_valid_when_issued :
    get (exec (.write false 5#32) { encoded (held .active) with collab := [.silence] })
      (fun t => (t.txValid, t.busy, t.seen Obs.isCall)) = some (false, true, 1) := by decide

/-- R9: a handle has `HANDLE_BITS` bits; with 8 of them 0x100 is the null handle, which OPEN does not take. -/
theorem test_handle_width :
    get (exec .openCh (State.given { blank with cfg := { inst with handleBits := 8 } } [hnd 0x100]))
      (fun t => t.visible.rsp) = some 0x101#32 ∧
    [{ inst with handleBits := 8, nullHandle := 255 }, { inst with handleBits := 8, nullHandle := 256 }].map
      Config.handleOk = [true, false] := by decide

/-- R227, R190: two reads fall between two ticks of a RUN, and the RUN goes on when the host waits. -/
theorem test_reads_between_ticks :
    [HostAction.get .busy, .setArg 7#32].map (fun a =>
      get (hostTurn a { held .active with busy := true, activity := .runLoop 5#32 })
        (fun t => (t.seen Obs.isCall, t.arg))) = [some (0, 0#32), some (0, 0#32)] ∧
    get (hostTurn .wait { State.given (held .active) [ans 0#32] with
        busy := true, activity := .runLoop 5#32, ctrlPort := [0#2] })
      (fun t => (t.seen Obs.isCall, t.activity)) = some (1, .runLoop 5#32) := by decide

/-- R113: `r`, `w`, `q`, escape, and a character the source does not describe. -/
theorem test_operator_characters :
    [0x72#8, 0x77#8, 0x71#8, 0x1B#8, 0x61#8].map (operatorOf 500#32) =
      [.command (.run 500#32), .control 1#2, .control 2#2, .control 2#2, .control 0#2] := by decide

/-! ### Witnesses: the hypotheses of the obligations are met together -/

/-- Session state `x`, an encoded record, the answers, control values and payloads to come. -/
def cyc (x : Session) (as : List Answer) (cs : List (BitVec 2) := []) (ps : List (List Word) := []) : State :=
  { encoded (State.given (held x) as) with ctrlPort := cs, payloadPort := ps }

theorem witness_LegalFramesAreTheTenWords :
    decodeFrame ⟨0x121#32, 5#32⟩ = .ok (.write true 5#32) ∧
      ∃ s : State, s.resetLine = [] ∧ ({ cmd := s.cmd, arg := s.arg } : Frame).legal = false :=
  ⟨by decide, { blank with cmd := 0x120#32 }, by decide⟩

theorem witness_DecodeAndEncodeAgree :
    decodeFrame ⟨0x20#32, 0xFFFFFFFF#32⟩ = .ok (.read 0xFFFFFFFF#32) ∧ decodeFrame ⟨0x12#32, 7#32⟩ = .ok .close := by
  decide

theorem witness_StepRunsDecodedCommand :
    ∃ (s : State) (rest : List HostAction) (i : Instr),
      s.hostPort = .present :: rest ∧ s.busy = false ∧ decodeFrame ⟨s.cmd, s.arg⟩ = .ok i :=
  ⟨{ blank with hostPort := [.present], cmd := 0x31#32, arg := 9#32 }, [], .run 9#32, by decide⟩

/-- A RUN between two ticks, the host's next action `a`. -/
def running (a : List HostAction) : State :=
  { held .active with busy := true, activity := .runLoop 500#32, hostPort := a }

theorem witness_BusyBlockDropsWritesAndFrames :
    (running [.setArg 1#32]).hostPort = .setArg 1#32 :: [] ∧ (running [.setArg 1#32]).busy = true ∧
      (∀ r, HostAction.setArg 1#32 ≠ .get r) ∧ HostAction.setArg 1#32 ≠ .reset ∧ HostAction.setArg 1#32 ≠ .wait ∧
      (running [.wait]).hostPort = .wait :: [] :=
  ⟨rfl, rfl, by simp, by simp, by simp, rfl⟩

theorem witness_IdleBlockWaits :
    blank.hostPort = [] ∧ blank.activity = .idle ∧ { blank with hostPort := [.wait] }.hostPort = .wait :: [] := by decide

/-- The last item of every file and buffer, and the first that does not exist. -/
theorem witness_HostWritesLand :
    blank.busy = false ∧ (List.replicate 6 0x62#8).length ≤ blank.cfg.boardNameMax ∧
      blank.cfg.boardNameMax < (List.replicate 7 0x62#8).length ∧ 79 < blank.cfg.outNamedWords ∧
      blank.cfg.outNamedWords ≤ 80 ∧ 487 < 488 ∧ 488 ≤ 488 ∧
      hostGet blank.cfg blank.visible .lastCode = some (.bits 0#32) ∧
      [HostReg.inRec 122, .outRec 80, .rxArea 488, .txBuf 244, .rbBuf 244].map (hostGet blank.cfg blank.visible) =
        [none, none, none, none, none] ∧
      [HostReg.inRec 121, .outRec 79, .rxArea 487, .txBuf 243, .rbBuf 243].all
        (fun r => (hostGet blank.cfg blank.visible r).isSome) = true := by decide

theorem witness_HostByteChangesOneWordHalf : (0 : Nat) ≠ 243 := by decide

theorem witness_ResetClearsBlockAndClosesNothing :
    (running [.reset]).hostPort = .reset :: [] ∧ { held .opened with hostPort := [.reset] }.hostPort = .reset :: [] := by
  decide

/-- The reset lands before a request, while it is outstanding, before the response of a command that calls nobody, in
the pacing wait, and before the response of a tick whose record has been handed over. -/
theorem witness_ResetAbandonsCommand :
    (∃ t, exec .close { held .opened with resetLine := [.before] } = .next t ∧
      (held .opened).seen Obs.isReset < t.seen Obs.isReset) ∧
    (∃ t, exec .close { held .opened with resetLine := [.quiet, .during] } = .next t ∧
      (held .opened).seen Obs.isReset < t.seen Obs.isReset) ∧
    (∃ t, exec .encode { blank with resetLine := [.before] } = .next t ∧
      blank.seen Obs.isReset < t.seen Obs.isReset) ∧
    (∃ t, exec (.tick 5#32) { cyc .active [ans 0#32] [0#2] with resetLine := [.quiet, .quiet, .quiet, .during] } =
      .next t ∧ (held .active).seen Obs.isReset < t.seen Obs.isReset) ∧
    ∃ t, exec (.tick 5#32) { cyc .active [ans 0#32] [2#2] with resetLine := [.quiet, .quiet, .quiet, .before] } =
      .next t ∧ (held .active).seen Obs.isReset < t.seen Obs.isReset :=
  ⟨⟨_, rfl, by decide⟩, ⟨_, rfl, by decide⟩, ⟨_, rfl, by decide⟩, ⟨_, rfl, by decide⟩, ⟨_, rfl, by decide⟩⟩

theorem witness_UnscriptedRequestGetsFreeAnswer : blank.resetLine = [] ∧ blank.collab = [] := by decide

/-- A READ that is never answered. -/
def stuck : State :=
  { held .busOn with busy := true, activity := .hung (.chRead 0x2000 0 0 488 5#32), hostPort := [.present] }

theorem witness_SilenceHangsTheBlock :
    (∃ (s : State) (rest : List PortEvent), s.resetLine = [] ∧ s.collab = .silence :: rest) ∧
      stuck.activity = .hung (.chRead 0x2000 0 0 488 5#32) ∧ stuck.busy = true ∧
      (∃ t, step stuck = .next t) ∧ stuck.hostPort.head? ≠ some .reset :=
  ⟨⟨{ blank with collab := [.silence] }, [], by decide⟩, rfl, rfl, ⟨_, rfl⟩, by decide⟩

theorem witness_DecodeReproducesEveryWord :
    blank.resetLine = [] ∧ (244 ≤ (244#32).toNat ∧ (244#32).toNat ≤ 488) ∧ 244 ≤ (488#32).toNat ∧
      (488#32).toNat ≤ 488 := by decide

theorem witness_DecodeOfShortBufferFails :
    blank.resetLine = [] ∧ (0#32).toNat < 244 ∧ (243#32).toNat < 244 := by decide

/-- Two buffers that agree in the slot and differ after it. -/
theorem witness_DecodeIsInjectiveOnTheSlot :
    ∃ b1 b2 : Memory, 244 ≤ 244 ∧ 244 ≤ 488 ∧ b1.read 244 ≠ b2.read 244 ∧ ∀ i, i < 244 → b1.read i = b2.read i :=
  ⟨⟨[(244, 0#8)], 0⟩, ⟨[(244, 1#8)], 0⟩, by decide, by decide, by decide, fun i h => by
    simp [Region.read, lookupCell, show ¬ 244 = i by omega]⟩

theorem witness_EncodeWritesWordsAndPadding :
    blank.resetLine = [] ∧ blank.cfg.outNamedBytes ≤ 244 ∧ { blank with cfg := full }.cfg.outNamedBytes ≤ 244 ∧
      full.outNamedBytes = 244 := by decide

theorem witness_EncodeOverflowBlocksTheWrite :
    ∃ s : State, s.resetLine = [] ∧ 244 < s.cfg.outNamedBytes := ⟨{ held .active with cfg := tooBig }, by decide⟩

theorem witness_EncodeThenDecodeRoundTrip :
    inst.nView = 4 ∧ inst.seqLen = 8 ∧ inst.padByte = 0x00#8 ∧ { inst with byteOrder := .big }.seqLen = 8 := by decide

theorem witness_EncodeIsInjective :
    full.outNamedBytes ≤ 244 ∧ encodeRecord full blank.outRec = encodeRecord full blank.outRec := ⟨by decide, rfl⟩

theorem witness_NamedFieldsLieAtTheirWords :
    inst.nView = 4 ∧ inst.seqLen = 8 ∧ InField.index inst (.setpoint 4 7) = some 47 ∧
      InField.index inst (.tail 73) = some 121 ∧ OutField.index inst (.valueQuality 4 7) = some 79 ∧
      OutField.index { inst with outSeqOrder := .grouped } (.value 2 0) = some 24 := by decide

theorem witness_OpenAcquiresBothHandles :
    ∃ (s : State) (a b : Answer) (rest : List PortEvent),
      s.sess = .closed ∧ s.resetLine = [] ∧ s.collab = .answer a :: .answer b :: rest ∧
      a.ok = true ∧ a.handle s.cfg ≠ s.cfg.nullHandle ∧ b.ok = true ∧ b.handle s.cfg ≠ s.cfg.nullHandle :=
  ⟨State.given blank [hnd 1, hnd 2], hnd 1, hnd 2, [], by decide⟩

theorem witness_OpenFailsWithoutDriverHandle :
    ∃ (s : State) (a : Answer) (rest : List PortEvent),
      s.sess = .closed ∧ s.resetLine = [] ∧ s.collab = .answer a :: rest ∧ (a.ok = false ∨ a.handle s.cfg = s.cfg.nullHandle) :=
  ⟨State.given blank [hnd 0], hnd 0, [], by decide⟩

theorem witness_OpenFailsWithoutChannelHandle :
    ∃ (s : State) (a b c : Answer) (rest : List PortEvent),
      s.sess = .closed ∧ s.resetLine = [] ∧ s.collab = .answer a :: .answer b :: .answer c :: rest ∧
      a.ok = true ∧ a.handle s.cfg ≠ s.cfg.nullHandle ∧ (b.ok = false ∨ b.handle s.cfg = s.cfg.nullHandle) :=
  ⟨State.given blank [hnd 1, hnd 0, ans 0#32], hnd 1, hnd 0, ans 0#32, [], by decide⟩

theorem witness_RefusedCommandChangesNothing :
    (held .opened).resetLine = [] ∧ (held .opened).sess ≠ .closed ∧ blank.resetLine = [] ∧ blank.sess ≠ .opened ∧
      (blank.sess ≠ .busOn ∧ blank.sess ≠ .active) ∧
      ((held .busOn).sess = .busOn ∧ (held .busOn).txValid = false) ∧ 488 < (489#32).toNat := by decide

theorem witness_NegotiateReachesBusOn :
    ∃ (s : State) (a b : Answer) (rest : List PortEvent),
      s.sess = .opened ∧ s.resetLine = [] ∧ s.collab = .answer a :: .answer b :: rest ∧
      a.code = s.cfg.rcOk ∧ b.code = s.cfg.rcOk :=
  ⟨State.given (held .opened) [ans 0#32, ans 0#32], ans 0#32, ans 0#32, [], by decide⟩

theorem witness_NegotiateFailsInHostPhase :
    ∃ (s : State) (a b c : Answer) (rest : List PortEvent),
      s.sess = .opened ∧ s.resetLine = [] ∧ s.collab = .answer a :: .answer b :: .answer c :: rest ∧
      s.chValid = true ∧ s.drvValid = true ∧ a.code ≠ s.cfg.rcOk :=
  ⟨State.given (held .opened) [ans 1#32, ans 0#32, ans 0#32], ans 1#32, ans 0#32, ans 0#32, [], by decide⟩

theorem witness_NegotiateFailsInBusPhase :
    ∃ (s : State) (a b c d : Answer) (rest : List PortEvent),
      s.sess = .opened ∧ s.resetLine = [] ∧
      s.collab = .answer a :: .answer b :: .answer c :: .answer d :: rest ∧
      s.chValid = true ∧ s.drvValid = true ∧ a.code = s.cfg.rcOk ∧ b.code ≠ s.cfg.rcOk :=
  ⟨State.given (held .opened) [ans 0#32, ans 1#32, ans 0#32, ans 0#32], ans 0#32, ans 1#32, ans 0#32, ans 0#32, [],
    by decide⟩

theorem witness_CloseReleasesChannelThenDriver :
    ∃ (s : State) (a b : Answer) (rest : List PortEvent),
      s.resetLine = [] ∧ s.collab = .answer a :: .answer b :: rest ∧ s.chValid = true ∧ s.drvValid = true :=
  ⟨State.given (held .active) [ans 0#32, ans 0#32], ans 0#32, ans 0#32, [], by decide⟩

theorem witness_CloseAlwaysEndsClosed :
    (State.given (held .opened) [ans 1#32]).cooperative = true ∧
      (blank.cooperative = true ∧ blank.chValid = false ∧ blank.drvValid = false) := by decide

theorem witness_BusOnOnlyAfterBothPhasesSucceed :
    (∃ t, exec .negotiate (State.given (held .opened) [ans 0#32, ans 0#32]) = .next t ∧
      (held .opened).sess ≠ .busOn ∧ t.sess = .busOn) ∧
    (State.given (held .opened) [ans 0#32, ans 1#32]).cooperative = true ∧ (held .opened).sess = .opened ∧
      ∃ t, exec .negotiate (State.given (held .opened) [ans 0#32, ans 1#32]) = .next t :=
  ⟨⟨_, rfl, by decide⟩, by decide, by decide, ⟨_, rfl⟩⟩

theorem witness_SessionMovesOnlyAsListed :
    ∃ t, exec .negotiate { held .opened with collab := [.answer (ans 0#32), .silence] } = .next t ∧
      t.sess = .hostReady := ⟨_, rfl, by decide⟩

theorem witness_ReadFillsTheInputArea :
    ∃ (s : State) (a : Answer) (rest : List PortEvent),
      (s.sess = .busOn ∨ s.sess = .active) ∧ s.resetLine = [] ∧ s.collab = .answer a :: rest ∧ a.code = s.cfg.rcOk :=
  ⟨cyc .busOn [ans 0#32 [5#8]], ans 0#32 [5#8], [], by decide⟩

theorem witness_FailedReadKeepsTheSession :
    ∃ (s : State) (a : Answer) (rest : List PortEvent),
      (s.sess = .busOn ∨ s.sess = .active) ∧ s.resetLine = [] ∧ s.collab = .answer a :: rest ∧ a.code ≠ s.cfg.rcOk :=
  ⟨cyc .busOn [ans 1#32], ans 1#32, [], by decide⟩

theorem witness_WriteWithoutReadBack :
    ∃ (s : State) (a : Answer) (rest : List PortEvent),
      (s.sess = .busOn ∨ s.sess = .active) ∧ s.txValid = true ∧ s.resetLine = [] ∧ s.collab = .answer a :: rest ∧
      a.code = s.cfg.rcOk :=
  ⟨cyc .busOn [ans 0#32], ans 0#32, [], by decide⟩

theorem witness_FailedWriteKeepsTheSession :
    ∃ (s : State) (a : Answer) (rest : List PortEvent),
      (s.sess = .busOn ∨ s.sess = .active) ∧ s.txValid = true ∧ s.resetLine = [] ∧ s.collab = .answer a :: rest ∧
      a.code ≠ s.cfg.rcOk :=
  ⟨cyc .active [ans 1#32], ans 1#32, [], by decide⟩

/-- Both outcomes of the comparison occur. -/
theorem witness_VerifyComparesTheStateWords :
    (∃ (s : State) (a b : Answer) (rest : List PortEvent),
      (s.sess = .busOn ∨ s.sess = .active) ∧ s.txValid = true ∧ s.resetLine = [] ∧
      s.collab = .answer a :: .answer b :: rest ∧ a.code = s.cfg.rcOk ∧ b.code = s.cfg.rcOk) ∧
    [[7#8, 0#8, 0#8, 0#8], [7#8, 0#8, 0#8, 1#8]].map (fun d =>
      get (exec (.write true 5#32) (cyc .busOn [ans 0#32, ans 0#32 d])) (fun t => t.lastVerify)) =
        [some .isMatch, some .mismatch] :=
  ⟨⟨cyc .busOn [ans 0#32, ans 0#32], ans 0#32, ans 0#32, [], by decide⟩, by decide⟩

theorem witness_FailedReadBackIsReported :
    ∃ (s : State) (a b : Answer) (rest : List PortEvent),
      (s.sess = .busOn ∨ s.sess = .active) ∧ s.txValid = true ∧ s.resetLine = [] ∧
      s.collab = .answer a :: .answer b :: rest ∧ a.code = s.cfg.rcOk ∧ b.code ≠ s.cfg.rcOk :=
  ⟨cyc .busOn [ans 0#32, ans 1#32], ans 0#32, ans 1#32, [], by decide⟩

theorem witness_EncodedRecordIsUsedOnce :
    (cyc .busOn [ans 1#32]).ready = true ∧ (cyc .busOn [ans 1#32]).txValid = true ∧
      (cyc .busOn [ans 1#32]).cooperative = true ∧ ∃ t, exec (.write false 5#32) (cyc .busOn [ans 1#32]) = .next t :=
  ⟨by decide, by decide, by decide, ⟨_, rfl⟩⟩

theorem witness_NoTransferOutsideReadySession :
    (held .opened).ready = false ∧ ∃ t, exec (.run 5#32) (State.given (held .opened) [ans 0#32, ans 0#32]) = .next t :=
  ⟨by decide, ⟨_, rfl⟩⟩

/-- With `CTRL` = 0 and with the reserved value 3. -/
theorem witness_TickReadsDecodesAndHandsOver :
    ∀ c ∈ [0#2, 3#2], ∃ (s : State) (a : Answer) (rest : List PortEvent) (cs : List (BitVec 2)),
      (s.sess = .busOn ∨ s.sess = .active) ∧ s.resetLine = [] ∧ s.collab = .answer a :: rest ∧ a.code = s.cfg.rcOk ∧
      s.ctrlPort = c :: cs ∧ c ≠ 1#2 ∧ c ≠ 2#2 := by
  intro c hc
  refine ⟨cyc .busOn [ans 0#32] [c], ans 0#32, [], [], ?_⟩
  revert c
  decide

theorem witness_TickWarnsAndTerminates :
    ∃ (s : State) (a : Answer) (rest : List PortEvent) (cs : List (BitVec 2)),
      (s.sess = .busOn ∨ s.sess = .active) ∧ s.resetLine = [] ∧ s.collab = .answer a :: rest ∧ a.code ≠ s.cfg.rcOk ∧
      s.ctrlPort = 2#2 :: cs :=
  ⟨cyc .busOn [ans 1#32] [2#2], ans 1#32, [], [], by decide⟩

/-- After a successful and after a failed read. -/
theorem witness_TickWritesThePayload :
    ∀ a ∈ [ans 0#32, ans 1#32],
      ∃ (s : State) (b d : Answer) (rest : List PortEvent) (cs : List (BitVec 2)) (ws : List Word)
        (ps : List (List Word)),
        (s.sess = .busOn ∨ s.sess = .active) ∧ s.resetLine = [] ∧
        s.collab = .answer a :: .answer b :: .answer d :: rest ∧ b.code = s.cfg.rcOk ∧
        d.code = s.cfg.rcOk ∧ s.ctrlPort = 1#2 :: cs ∧ s.payloadPort = ws :: ps ∧ s.cfg.outNamedBytes ≤ 244 := by
  intro a ha
  refine ⟨cyc .busOn [a, ans 0#32, ans 0#32] [1#2] [[9#16]], ans 0#32, ans 0#32, [], [], [9#16], [], ?_⟩
  revert a
  decide

theorem witness_TickAbsorbsEveryFailure :
    (∃ s : State, s.ready = true ∧ s.cooperative = true) ∧
    (∃ (s : State) (a b : Answer) (rest : List PortEvent) (cs : List (BitVec 2)),
      (s.sess = .busOn ∨ s.sess = .active) ∧ s.resetLine = [] ∧ s.collab = .answer a :: .answer b :: rest ∧
      b.code ≠ s.cfg.rcOk ∧ s.ctrlPort = 1#2 :: cs ∧ s.cfg.outNamedBytes ≤ 244) ∧
    (∃ (s : State) (a : Answer) (rest : List PortEvent) (cs : List (BitVec 2)),
      (s.sess = .busOn ∨ s.sess = .active) ∧ s.resetLine = [] ∧ s.collab = .answer a :: rest ∧
      s.ctrlPort = 1#2 :: cs ∧ 244 < s.cfg.outNamedBytes) ∧
    ∃ (s : State) (a b d : Answer) (rest : List PortEvent) (cs : List (BitVec 2)),
      (s.sess = .busOn ∨ s.sess = .active) ∧ s.resetLine = [] ∧
      s.collab = .answer a :: .answer b :: .answer d :: rest ∧ b.code = s.cfg.rcOk ∧ d.code ≠ s.cfg.rcOk ∧
      s.ctrlPort = 1#2 :: cs ∧ s.cfg.outNamedBytes ≤ 244 :=
  ⟨⟨cyc .busOn [ans 1#32, ans 1#32], by decide⟩,
    ⟨cyc .busOn [ans 1#32, ans 1#32] [1#2], ans 1#32, ans 1#32, [], [], by decide⟩,
    ⟨{ cyc .active [ans 0#32] [1#2] with cfg := tooBig }, ans 0#32, [], [], by decide⟩,
    ⟨cyc .busOn [ans 1#32, ans 0#32, ans 1#32] [1#2], ans 1#32, ans 0#32, ans 1#32, [], [], by decide⟩⟩

theorem witness_TickIssuesAtMostThreePrimitives : ∃ t, exec (.tick 5#32) (held .busOn) = .next t := ⟨_, rfl⟩

theorem witness_RunTerminatesAndCloses :
    ∃ (s : State) (a b d : Answer) (rest : List PortEvent) (cs : List (BitVec 2)),
      (s.sess = .busOn ∨ s.sess = .active) ∧ s.chValid = true ∧ s.drvValid = true ∧ s.resetLine = [] ∧
      s.collab = .answer a :: .answer b :: .answer d :: rest ∧ a.code = s.cfg.rcOk ∧ s.ctrlPort = 2#2 :: cs :=
  ⟨cyc .busOn [ans 0#32, ans 0#32, ans 0#32] [2#2], ans 0#32, ans 0#32, ans 0#32, [], [], by decide⟩

/-- The tick that goes on may be one on `WriteNow` whose read fails. -/
theorem witness_RunGoesOnUntilTerminate :
    (∃ (s : State) (a : Answer) (rest : List PortEvent) (c : BitVec 2) (cs : List (BitVec 2)),
      (s.sess = .busOn ∨ s.sess = .active) ∧ s.resetLine = [] ∧ s.collab = .answer a :: rest ∧ a.code = s.cfg.rcOk ∧
      s.ctrlPort = c :: cs ∧ c ≠ 1#2 ∧ c ≠ 2#2) ∧
    (∃ (s : State) (c : BitVec 2) (cs : List (BitVec 2)),
      s.ready = true ∧ s.cooperative = true ∧ s.ctrlPort = c :: cs ∧ c ≠ 2#2) ∧
    (∃ (s : State) (tm : Word32) (c : BitVec 2) (cs : List (BitVec 2)),
      s.hostPort = [] ∧ s.activity = .runLoop tm ∧ s.busy = true ∧ s.ready = true ∧ s.cooperative = true ∧
      s.ctrlPort = c :: cs ∧ c ≠ 2#2) ∧
    ∃ (s : State) (tm : Word32) (rest : List HostAction), s.hostPort = .wait :: rest ∧ s.activity = .runLoop tm :=
  ⟨⟨cyc .busOn [ans 0#32] [3#2], ans 0#32, [], 3#2, [], by decide⟩,
    ⟨cyc .busOn [ans 1#32] [1#2], 1#2, [], by decide⟩,
    ⟨{ running [] with ctrlPort := [1#2] }, 500#32, 1#2, [], by decide⟩, ⟨running [.wait], 500#32, [], by decide⟩⟩

theorem witness_RunRefusedStillCloses :
    ((held .opened).ready = false ∧ (held .opened).cooperative = true) ∧ blank.ready = false ∧
      blank.cooperative = true := by decide

/-- A RUN whose next tick is told to terminate. -/
def lastTick : State := { State.given (running []) [ans 1#32, ans 0#32, ans 0#32] with ctrlPort := [2#2] }

theorem witness_RunEndsClosed :
    lastTick.activity = .runLoop 500#32 ∧ lastTick.busy = true ∧ lastTick.hostPort = [] ∧ lastTick.cooperative = true ∧
      ∃ t, step lastTick = .next t ∧ t.busy = false :=
  ⟨rfl, rfl, rfl, by decide, ⟨_, rfl, by decide⟩⟩

theorem witness_OnlySequencerPollsControl :
    (∀ tm, Instr.read 5#32 ≠ .tick tm) ∧ (∀ tm, Instr.read 5#32 ≠ .run tm) ∧
      ∃ t, exec (.read 5#32) (held .busOn) = .next t :=
  ⟨by simp, by simp, ⟨_, rfl⟩⟩

/-- An open session with its history, a NEGOTIATE presented. -/
def opened : State :=
  { held .opened with
    hostPort := [.present], cmd := 0x11#32,
    history := [.call .drvOpen (some (hnd 0x1000)) blank.visible,
      .call (.chOpen 0x1000 [] 0) (some (hnd 0x2000)) blank.visible] }

theorem opened_nothingLeaked : opened.nothingLeaked := by
  intro h
  simp only [State.chClosed, State.chHeld, State.chAcquired, State.drvClosed, State.drvHeld, State.drvAcquired, opened,
    held, hnd, List.countP_cons, List.countP_nil, Obs.closesCh, Obs.closesDrv, Obs.acquiresCh, Obs.acquiresDrv,
    Answer.noHandle]
  constructor
  · by_cases hh : (0x2000 : Handle) = h
    · subst hh; decide
    · simp [hh, show Answer.handle blank.cfg { h := 0x2000 } = 0x2000 from rfl]
  · by_cases hh : (0x1000 : Handle) = h
    · subst hh; decide
    · simp [hh, show Answer.handle blank.cfg { h := 0x1000 } = 0x1000 from rfl]

theorem witness_StepKeepsSessionInvariant : opened.sessionInv = true ∧ ∃ t, step opened = .next t :=
  ⟨by decide, ⟨_, rfl⟩⟩

theorem witness_StepKeepsDataInvariant :
    { opened with rxArea := ⟨[(0, 1#8), (487, 2#8)], 0⟩ }.dataInv = true ∧ ∃ t, step opened = .next t :=
  ⟨by decide, ⟨_, rfl⟩⟩

theorem witness_HandlesAreClosedAtMostOnce :
    opened.sessionInv = true ∧ opened.closedAtMostOnce ∧ ∃ t, step opened = .next t :=
  ⟨by decide, fun h => ⟨(opened_nothingLeaked h).1.le, (opened_nothingLeaked h).2.le⟩, ⟨_, rfl⟩⟩

theorem witness_NoHandleLeaksWithoutReset :
    (State.given opened [ans 1#32, ans 0#32, ans 0#32]).sessionInv = true ∧
      (State.given opened [ans 1#32, ans 0#32, ans 0#32]).nothingLeaked ∧
      ∃ t, step (State.given opened [ans 1#32, ans 0#32, ans 0#32]) = .next t ∧ t.neverReset = true :=
  ⟨by decide, opened_nothingLeaked, ⟨_, rfl, by decide⟩⟩

theorem witness_ClosedSessionIsClean :
    blank.sessionInv = true ∧ blank.nothingLeaked ∧ blank.activity = .idle ∧ blank.sess = .closed :=
  ⟨by decide, fun _ => ⟨rfl, rfl⟩, rfl, rfl⟩

theorem witness_ParametersAreNeverWritten : ∃ t, step opened = .next t := ⟨_, rfl⟩

theorem witness_TransfersMoveWholeAreas :
    (∀ o ∈ lastTick.history, o.wholeTransfer lastTick.cfg = true) ∧
      ∃ t, step lastTick = .next t ∧ t.seen Obs.isTransfer = 1 :=
  ⟨by decide, ⟨_, rfl, by decide⟩⟩

theorem witness_ErrorDescriptionIsNeverCalled :
    opened.seen Obs.isErrDesc = 0 ∧ ∃ t, step opened = .next t := ⟨by decide, ⟨_, rfl⟩⟩

end Sys2Proof.Tests
end

/-! SUPPORT. The family of `00_scope.md`: the bytes of a word (R11), the dispatch (R101), free answers (log 4), and what
one step is made of: a chain of elementary updates, from which an invariant of every step is read off update by
update. -/

namespace Sys2Proof.Machine

/-! ### Bytes of a word in a buffer -/

/-- A byte of a word of a buffer is the buffer's byte at that offset (R11). -/
@[simp] theorem byteOf_word (bo : ByteOrder) (m : Memory) (k : Nat) (odd : Bool) :
    byteOf bo (Region.word bo m k) odd = m.read (2 * k + odd.toNat) := by
  cases odd with
  | false => exact byteOf_wordOf_even bo _ _
  | true => exact byteOf_wordOf_odd bo _ _

/-- A byte written outside word `j` leaves word `j`. -/
theorem word_write_of_ne (bo : ByteOrder) (m : Memory) {i j : Nat} (b : Byte) (h0 : i ≠ 2 * j) (h1 : i ≠ 2 * j + 1) :
    Region.word bo (m.write i b) j = Region.word bo m j := by
  simp only [Region.word, Region.read_write_ne m b h0, Region.read_write_ne m b h1]

/-- Settles O9. Everything about the halves of a word comes back to the bytes of the buffer by `byteOf_word`. -/
theorem hostByteChangesOneWordHalf : Obligations.HostByteChangesOneWordHalf := by
  unfold Obligations.HostByteChangesOneWordHalf
  refine ⟨fun m k => ⟨?_, ?_, ?_, ?_⟩, fun v => ⟨rfl, rfl, rfl, rfl⟩, fun bo m k j odd b => ⟨?_, ?_, ?_⟩⟩
  · exact byteOf_word .little m k false
  · exact byteOf_word .little m k true
  · exact byteOf_word .big m k false
  · exact byteOf_word .big m k true
  · intro hjk
    have hodd := odd.toNat_le
    exact word_write_of_ne bo m b (by omega) (by omega)
  · rw [byteOf_word, Region.read_write_same]
  · have hother : 2 * k + odd.toNat ≠ 2 * k + (!odd).toNat := by cases odd <;> simp
    rw [byteOf_word, byteOf_word, Region.read_write_ne m b hother]

/-! ### The dispatch, and the free answer -/

/-- The step of a block whose next host action is `a`: the host's turn, with the action taken from the port. -/
theorem step_of_hostPort {s : State} {a : HostAction} {rest : List HostAction} (h : s.hostPort = a :: rest) :
    step s = hostTurn a { s with hostPort := rest } := by
  simp only [step, h]

/-- While `BUSY` = 0 a presented frame is accepted (R15). -/
theorem hostTurn_present_idle {s : State} (h : s.busy = false) : hostTurn .present s = accept s := by
  simp [hostTurn, h, hostIdle]

/-- An accepted frame that decodes to `i` is executed as `i` (R101). -/
theorem accept_of_decode {s : State} {i : Instr} (h : decodeFrame ⟨s.cmd, s.arg⟩ = .ok i) : accept s = exec i s := by
  simp only [accept, fetch, h]

/-- Settles O5. -/
theorem stepRunsDecodedCommand : Obligations.StepRunsDecodedCommand := by
  intro s rest i hport hbusy hdec
  calc step s = hostTurn .present { s with hostPort := rest } := step_of_hostPort hport
    _ = accept { s with hostPort := rest } := hostTurn_present_idle hbusy
    _ = exec i { s with hostPort := rest } := accept_of_decode hdec

/-- Settles O13: both calls go on with the free answer, from states that differ in nothing. -/
theorem unscriptedRequestGetsFreeAnswer : Obligations.UnscriptedRequestGetsFreeAnswer := by
  intro p s k hr hc
  refine (callThen_free hr hc).trans (Eq.symm (callThen_answered ?_ rfl))
  exact hr

/-! ### What a step is made of -/

/-- The block can make the history entry `o`: a transfer moves a whole area (R63, R68), and `getErrorDescription` is
not called (R225). -/
def Obs.made (c : Config) (o : Obs) : Prop := o.wholeTransfer c = true ∧ o.isErrDesc = false

/-- `t` comes from `s` by one elementary update: a host write, an input taken from a port, a history entry, or one of the
named register transfers of a command, with the bound that keeps what it stores inside its register or buffer. -/
inductive Update (s : State) : State → Prop where
  | hostTaken (l : List HostAction) : Update s { s with hostPort := l }
  | setCmd (v : Word32) : Update s { s with cmd := v }
  | setArg (v : Word32) : Update s { s with arg := v }
  | setName (name : List Byte) (h : name.length ≤ s.cfg.boardNameMax) : Update s { s with boardName := name }
  | setOut (k : Nat) (v : Word) (h : k < s.cfg.outNamedWords) : Update s { s with outRec := s.outRec.write k v }
  | setRx (i : Nat) (b : Byte) (h : i < inAreaBytes) : Update s { s with rxArea := s.rxArea.write i b }
  | portsAt (c : List PortEvent) (l : List ResetInput) (d : Nat) : Update s (s.portsAt c l d)
  | ctrlAt (cs : List (BitVec 2)) (d : Nat) : Update s (s.ctrlAt cs d)
  | payloadAt (ws : List Word) (d : Nat) (ps : List (List Word)) (h : ws.length ≤ s.cfg.outNamedWords) :
      Update s (s.payloadAt (Region.filled ws d) ps)
  | observe (o : Obs) (h : o.made s.cfg) : Update s (s.observe o)
  | reset : Update s (hardReset s)
  | hang (p : Primitive) : Update s (hang p s)
  | begin : Update s s.begin
  | loopOn (t : Word32) : Update s (loopOn t s)
  | withReply (r : Reply) : Update s (s.withReply r)
  | finish : Update s s.finish
  | storeIn (ws : List Word) (h : ws.length ≤ recWords) : Update s (storeIn ws s)
  | voidIn : Update s (voidIn s)
  | storeTx (bs : List Byte) (h : bs.length ≤ recBytes) : Update s (storeTx bs s)
  | consumeTx : Update s (consumeTx s)
  | storeRx (d : List Byte) : Update s (storeRx d s)
  | voidRx : Update s (voidRx s)
  | storeRb (d : List Byte) : Update s (storeRb d s)
  | voidRb : Update s (voidRb s)
  | noteRbCode (c : Word32) : Update s (noteRbCode c s)
  | moveTo (x : Session) : Update s (moveTo x s)
  | holdDrv (a : Answer) : Update s (holdDrv (a.handle s.cfg) s)
  | holdCh (a : Answer) : Update s (holdCh (a.handle s.cfg) s)
  | dropDrv : Update s (dropDrv s)
  | dropCh : Update s (dropCh s)

/-- `t` comes from `s` by a chain of elementary updates. -/
abbrev Reaches : State → State → Prop := Relation.ReflTransGen Update

/-- A property that every elementary update keeps is kept along a chain of them. -/
theorem Reaches.keeps {P : State → Prop} (hP : ∀ {s t}, Update s t → P s → P t) {s t : State} (h : Reaches s t)
    (hs : P s) : P t := by
  induction h with
  | refl => exact hs
  | tail _ hu ih => exact hP hu ih

/-! The shared operations and the bodies of the commands: what comes after the cut-off points is `k`, and if `k` stays on
the chain then so does the whole. -/

section
variable {s₀ s : State}

theorem orReset_reaches {k : State → State} (hs : Reaches s₀ s) (hk : ∀ t, Reaches s₀ t → Reaches s₀ (k t)) :
    Reaches s₀ (orReset s k) :=
  orReset_elim (fun _ => hk _ (hs.tail (.portsAt ..))) (fun _ => (hs.tail (.portsAt ..)).tail .reset)

theorem callThen_reaches {p : Primitive} {k : Answer → State → State} (hs : Reaches s₀ s)
    (hp : ∀ a v, (Obs.call p a v).made s.cfg) (hk : ∀ a t, Reaches s₀ t → Reaches s₀ (k a t)) :
    Reaches s₀ (callThen p s k) :=
  have hcall (a c l d) : Reaches s₀ ((s.portsAt c l d).observe (.call p a s.visible)) :=
    (hs.tail (.portsAt c l d)).tail (.observe _ (hp a _))
  callThen_elim
    (before := fun _ => (hs.tail (.portsAt ..)).tail .reset)
    (during := fun _ _ _ => (hcall ..).tail .reset)
    (silent := fun _ _ => (hcall ..).tail (.hang p))
    (answered := fun _ _ _ _ => hk _ _ (hcall ..))

theorem waitThen_reaches {k : State → State} (hs : Reaches s₀ s) (hk : ∀ t, Reaches s₀ t → Reaches s₀ (k t)) :
    Reaches s₀ (waitThen s k) :=
  have hwait (l) : Reaches s₀ ((s.portsAt s.collab l s.draws).observe (.wait s.cfg.pacingMs)) :=
    (hs.tail (.portsAt ..)).tail (.observe _ ⟨rfl, rfl⟩)
  waitThen_elim
    (waited := fun _ => hk _ (hwait _))
    (before := fun _ => (hs.tail (.portsAt ..)).tail .reset)
    (during := fun _ => (hwait _).tail .reset)

theorem emitThen_reaches {e : Event} {k : State → State} (hs : Reaches s₀ s)
    (hk : ∀ t, Reaches s₀ t → Reaches s₀ (k t)) : Reaches s₀ (emitThen e s k) :=
  orReset_reaches hs fun _ ht => hk _ (ht.tail (.observe _ ⟨rfl, rfl⟩))

theorem pollThen_reaches {k : Signal → State → State} (hs : Reaches s₀ s)
    (hk : ∀ sig t, Reaches s₀ t → Reaches s₀ (k sig t)) : Reaches s₀ (pollThen s k) :=
  orReset_reaches hs fun t ht => by
    obtain ⟨ctrl, cs, d, hpoll⟩ := pollControl_cases t
    rw [hpoll]
    exact hk _ _ ((ht.tail (.ctrlAt cs d)).tail (.observe _ ⟨rfl, rfl⟩))

theorem endCommand_reaches (r : Reply) (hs : Reaches s₀ s) : Reaches s₀ (endCommand r s) :=
  orReset_reaches hs fun _ ht => ((ht.tail (.withReply r)).tail (.observe _ ⟨rfl, rfl⟩)).tail .finish

theorem enterActive_reaches (hs : Reaches s₀ s) : Reaches s₀ (enterActive s) := by
  unfold enterActive
  split
  · exact hs.tail (.moveTo _)
  · exact hs

theorem releaseDrvThen_reaches {k : State → State} (hs : Reaches s₀ s)
    (hk : ∀ t, Reaches s₀ t → Reaches s₀ (k t)) : Reaches s₀ (releaseDrvThen s k) := by
  unfold releaseDrvThen
  split
  · exact callThen_reaches hs (fun _ _ => ⟨rfl, rfl⟩) fun _ _ ht => hk _ (ht.tail .dropDrv)
  · exact hk s hs

theorem releaseThen_reaches {k : State → State} (hs : Reaches s₀ s)
    (hk : ∀ t, Reaches s₀ t → Reaches s₀ (k t)) : Reaches s₀ (releaseThen s k) := by
  unfold releaseThen
  split
  · exact callThen_reaches hs (fun _ _ => ⟨rfl, rfl⟩) fun _ _ ht => releaseDrvThen_reaches (ht.tail .dropCh) hk
  · exact releaseDrvThen_reaches hs hk

theorem decodeBody_reaches (len : Nat) (hs : Reaches s₀ s) : Reaches s₀ (decodeBody len s).2 := by
  obtain ⟨-, h⟩ | ⟨-, h⟩ | ⟨-, -, h⟩ := decodeBody_cases len s <;> rw [h]
  · exact hs
  · exact hs.tail .voidIn
  · exact hs.tail (.storeIn _ (by simp))

theorem encodeBody_reaches (hs : Reaches s₀ s) : Reaches s₀ (encodeBody s).2 := by
  obtain ⟨-, h⟩ | ⟨-, h⟩ := encodeBody_cases s <;> rw [h]
  · exact hs.tail .consumeTx
  · exact hs.tail (.storeTx _ (by simp))

theorem loadPayload_reaches (hs : Reaches s₀ s) : Reaches s₀ (loadPayload s) := by
  obtain ⟨ws, ps, h⟩ := loadPayload_cases s
  rw [h]
  exact hs.tail (.payloadAt _ _ _ (by simp))

end

section
variable {s₀ s : State} {k : Reply → State → State}

theorem openChannel_reaches (hs : Reaches s₀ s) (hk : ∀ r t, Reaches s₀ t → Reaches s₀ (k r t)) :
    Reaches s₀ (openChannel s k) :=
  callThen_reaches hs (fun _ _ => ⟨rfl, rfl⟩) fun a t ht => by
    split
    · exact callThen_reaches ht (fun _ _ => ⟨rfl, rfl⟩) fun _ _ hu => hk _ _ (hu.tail .dropDrv)
    · exact hk _ _ (ht.tail (.holdCh a))

theorem openBody_reaches (hs : Reaches s₀ s) (hk : ∀ r t, Reaches s₀ t → Reaches s₀ (k r t)) :
    Reaches s₀ (openBody s k) := by
  unfold openBody
  split
  · refine callThen_reaches hs (fun _ _ => ⟨rfl, rfl⟩) fun a t ht => ?_
    split
    · exact hk _ _ ht
    · exact openChannel_reaches (ht.tail (.holdDrv a)) hk
  · exact hk _ _ hs

theorem negotiationFails_reaches (ph : Phase) (code : Word32) (hs : Reaches s₀ s)
    (hk : ∀ r t, Reaches s₀ t → Reaches s₀ (k r t)) : Reaches s₀ (negotiationFails ph code s k) :=
  releaseThen_reaches hs fun _ ht => hk _ _ (ht.tail (.moveTo _))

theorem negotiateBody_reaches (hs : Reaches s₀ s) (hk : ∀ r t, Reaches s₀ t → Reaches s₀ (k r t)) :
    Reaches s₀ (negotiateBody s k) := by
  unfold negotiateBody
  split
  · refine callThen_reaches hs (fun _ _ => ⟨rfl, rfl⟩) fun a t ht => ?_
    split
    · exact negotiationFails_reaches _ _ ht hk
    · refine callThen_reaches (ht.tail (.moveTo _)) (fun _ _ => ⟨rfl, rfl⟩) fun b u hu => ?_
      split
      · exact negotiationFails_reaches _ _ hu hk
      · exact hk _ _ (hu.tail (.moveTo _))
  · exact hk _ _ hs

theorem closeBody_reaches (hs : Reaches s₀ s) (hk : ∀ r t, Reaches s₀ t → Reaches s₀ (k r t)) :
    Reaches s₀ (closeBody s k) :=
  releaseThen_reaches hs fun _ ht => hk _ _ (ht.tail (.moveTo _))

theorem readBody_reaches (t : Word32) (hs : Reaches s₀ s) (hk : ∀ r u, Reaches s₀ u → Reaches s₀ (k r u)) :
    Reaches s₀ (readBody t s k) := by
  unfold readBody
  split
  · refine callThen_reaches (hs.tail .voidIn) (fun _ _ => ⟨by simp [Obs.wholeTransfer], rfl⟩) fun a u hu => ?_
    split
    · exact hk _ _ (hu.tail .voidRx)
    · exact hk _ _ (enterActive_reaches (hu.tail (.storeRx _)))
  · exact hk _ _ hs

theorem readBackThen_reaches (t : Word32) (hs : Reaches s₀ s) (hk : ∀ r u, Reaches s₀ u → Reaches s₀ (k r u)) :
    Reaches s₀ (readBackThen t s k) :=
  callThen_reaches hs (fun _ _ => ⟨by simp [Obs.wholeTransfer], rfl⟩) fun a u hu => by
    split
    · exact hk _ _ ((hu.tail (.noteRbCode _)).tail .voidRb)
    · exact hk _ _ (hu.tail (.storeRb _))

theorem writeBody_reaches (v : Bool) (t : Word32) (hs : Reaches s₀ s)
    (hk : ∀ r u, Reaches s₀ u → Reaches s₀ (k r u)) : Reaches s₀ (writeBody v t s k) := by
  unfold writeBody
  split
  · refine callThen_reaches (hs.tail .consumeTx)
      (fun _ _ => ⟨by simp [Obs.wholeTransfer, State.txBytes], rfl⟩) fun a u hu => ?_
    split
    · exact hk _ _ hu
    · split
      · exact readBackThen_reaches t (enterActive_reaches hu) hk
      · exact hk _ _ (enterActive_reaches hu)
  · exact hk _ _ hs

theorem tickDecode_reaches (r : Reply) {j : State → State} (hs : Reaches s₀ s)
    (hj : ∀ u, Reaches s₀ u → Reaches s₀ (j u)) : Reaches s₀ (tickDecode r s j) := by
  have hd : Reaches s₀ (decodeBody inAreaBytes s).2 := decodeBody_reaches _ hs
  unfold tickDecode
  split
  · dsimp only
    split
    · exact emitThen_reaches hd hj
    · exact emitThen_reaches hd hj
  · exact emitThen_reaches hs hj

theorem tickWait_reaches (vr : Verify) (rbc : Word32) (hs : Reaches s₀ s)
    (hk : ∀ r u, Reaches s₀ u → Reaches s₀ (k r u)) : Reaches s₀ (tickWait vr rbc s k) :=
  waitThen_reaches hs (hk _)

theorem tickWrite_reaches (t : Word32) (hs : Reaches s₀ s) (hk : ∀ r u, Reaches s₀ u → Reaches s₀ (k r u)) :
    Reaches s₀ (tickWrite t s k) := by
  have he : Reaches s₀ (encodeBody (loadPayload s)).2 := encodeBody_reaches (loadPayload_reaches hs)
  have hwait (vr rbc u) (hu : Reaches s₀ u) : Reaches s₀ (tickWait vr rbc u k) := tickWait_reaches vr rbc hu hk
  unfold tickWrite
  dsimp only
  split
  · exact emitThen_reaches he (hwait _ _)
  · refine writeBody_reaches true t he fun w u hu => ?_
    split
    · exact emitThen_reaches hu (hwait _ _)
    · exact emitThen_reaches hu (hwait _ _)

theorem tickPoll_reaches (t : Word32) (hs : Reaches s₀ s) (hk : ∀ r u, Reaches s₀ u → Reaches s₀ (k r u)) :
    Reaches s₀ (tickPoll t s k) :=
  pollThen_reaches hs fun sig u hu => by
    cases sig with
    | cont => exact tickWait_reaches _ _ hu hk
    | writeNow => exact tickWrite_reaches t hu hk
    | terminate => exact hk _ _ hu

theorem tickBody_reaches (t : Word32) (hs : Reaches s₀ s) (hk : ∀ r u, Reaches s₀ u → Reaches s₀ (k r u)) :
    Reaches s₀ (tickBody t s k) := by
  unfold tickBody
  split
  · exact readBody_reaches t hs fun r _ hu => tickDecode_reaches r hu fun _ hv => tickPoll_reaches t hv hk
  · exact hk _ _ hs

theorem runClose_reaches (r : Reply) (hs : Reaches s₀ s) : Reaches s₀ (runClose r s) :=
  closeBody_reaches hs fun _ _ ht => endCommand_reaches r ht

theorem runTick_reaches (t : Word32) (hs : Reaches s₀ s) : Reaches s₀ (runTick t s) :=
  tickBody_reaches t hs fun r u hu => by
    split
    · exact runClose_reaches _ hu
    · exact hu

end

/-- A command is a chain of elementary updates. -/
theorem exec_reaches {i : Instr} {s t : State} (h : exec i s = .next t) : Reaches s t := by
  have hb : Reaches s s.begin := .single .begin
  have hend (r u) (hu : Reaches s u) : Reaches s (endCommand r u) := endCommand_reaches r hu
  cases i with
  | decode len => cases h; exact hend _ _ (decodeBody_reaches _ hb)
  | encode => cases h; exact hend _ _ (encodeBody_reaches hb)
  | openCh => cases h; exact openBody_reaches hb hend
  | negotiate => cases h; exact negotiateBody_reaches hb hend
  | close => cases h; exact closeBody_reaches hb hend
  | read t => cases h; exact readBody_reaches t hb hend
  | write v t => cases h; exact writeBody_reaches v t hb hend
  | tick t => cases h; exact tickBody_reaches t hb hend
  | run t =>
    cases h
    split
    · exact runTick_reaches t (hb.tail (.loopOn t))
    · exact runClose_reaches _ hb

theorem accept_reaches {s t : State} (h : accept s = .next t) : Reaches s t := by
  unfold accept at h
  split at h
  · exact exec_reaches h
  · cases h
    exact endCommand_reaches _ (.single .begin)

theorem advance_reaches (s : State) : Reaches s (advance s) := by
  unfold advance
  split
  · exact .refl
  · exact runTick_reaches _ .refl
  · exact .refl

theorem hostRead_reaches {r : HostReg} {s t : State} (h : hostRead r s = .next t) : Reaches s t := by
  unfold hostRead at h
  split at h <;> cases h
  exact .single (.observe _ ⟨rfl, rfl⟩)

theorem hostIdle_reaches {a : HostAction} {s t : State} (h : hostIdle a s = .next t) : Reaches s t := by
  cases a with
  | setCmd v => cases h; exact .single (.setCmd v)
  | setArg v => cases h; exact .single (.setArg v)
  | setBoardName name =>
    simp only [hostIdle, hostSetName] at h
    split at h <;> cases h
    next hlen => exact .single (.setName name hlen)
  | setOutRec k v =>
    simp only [hostIdle, hostSetOut] at h
    split at h <;> cases h
    next hk => exact .single (.setOut k v hk)
  | setRxArea i b =>
    simp only [hostIdle, hostSetRx] at h
    split at h <;> cases h
    next hi => exact .single (.setRx i b hi)
  | get r => exact hostRead_reaches h
  | present => exact accept_reaches h
  | wait => cases h; exact advance_reaches s
  | reset => cases h; exact .single .reset

theorem hostBusy_reaches {a : HostAction} {s t : State} (h : hostBusy a s = .next t) : Reaches s t := by
  cases a with
  | get r => exact hostRead_reaches h
  | wait => cases h; exact advance_reaches s
  | reset => cases h; exact .single .reset
  | setCmd | setArg | setBoardName | setOutRec | setRxArea | present => cases h; exact .refl

/-- A step is a chain of elementary updates. -/
theorem step_reaches {s t : State} (h : step s = .next t) : Reaches s t := by
  cases hport : s.hostPort with
  | nil =>
    simp only [step, hport] at h
    cases h
    exact advance_reaches s
  | cons a rest =>
    rw [step_of_hostPort hport, hostTurn] at h
    refine .head (.hostTaken rest) ?_
    split at h
    · exact hostBusy_reaches h
    · exact hostIdle_reaches h

/-- What every elementary update keeps, every step keeps. -/
theorem step_keeps {P : State → Prop} (hP : ∀ {s t}, Update s t → P s → P t) {s t : State} (h : step s = .next t)
    (hs : P s) : P t :=
  (step_reaches h).keeps hP hs

/-! ### The data invariant -/

/-- The parts of the data invariant by name. -/
structure DataFits (s : State) : Prop where
  inRec : s.inRec.wf recWords = true
  outRec : s.outRec.wf s.cfg.outNamedWords = true
  rxArea : s.rxArea.wf inAreaBytes = true
  txBuf : s.txBuf.wf recBytes = true
  rbBuf : s.rbBuf.wf outAreaBytes = true
  boardName : s.boardName.length ≤ s.cfg.boardNameMax
  nullHandle : s.cfg.nullHandle < 2 ^ s.cfg.handleBits
  drvH : s.drvH < 2 ^ s.cfg.handleBits
  chH : s.chH < 2 ^ s.cfg.handleBits

theorem dataInv_iff (s : State) : s.dataInv = true ↔ DataFits s := by
  simp only [State.dataInv, Memory.wf, Config.handleOk, Bool.and_eq_true, decide_eq_true_eq]
  constructor
  · rintro ⟨⟨⟨⟨⟨⟨⟨⟨hin, hout⟩, hrx⟩, htx⟩, hrb⟩, hname⟩, hnull⟩, hdrv⟩, hch⟩
    exact ⟨hin, hout, hrx, htx, hrb, hname, hnull, hdrv, hch⟩
  · rintro ⟨hin, hout, hrx, htx, hrb, hname, hnull, hdrv, hch⟩
    exact ⟨⟨⟨⟨⟨⟨⟨⟨hin, hout⟩, hrx⟩, htx⟩, hrb⟩, hname⟩, hnull⟩, hdrv⟩, hch⟩

/-- A handle taken from an answer fits `HANDLE_BITS` (R9, R14). -/
theorem Answer.handle_lt (c : Config) (a : Answer) : a.handle c < 2 ^ c.handleBits :=
  Nat.mod_lt _ (Nat.two_pow_pos _)

/-- After a reset every region is empty and both handles are the null handle, so only that handle's width is needed. -/
theorem dataFits_hardReset {s : State} (h : s.cfg.nullHandle < 2 ^ s.cfg.handleBits) : DataFits (hardReset s) where
  inRec := rfl
  outRec := rfl
  rxArea := rfl
  txBuf := rfl
  rbBuf := rfl
  boardName := Nat.zero_le _
  nullHandle := h
  drvH := h
  chH := h

/-- An update keeps what it does not write; what it writes it fills within its size, writes inside it, or makes wholly
unspecified. -/
theorem Update.dataFits {s t : State} (hu : Update s t) (h : DataFits s) : DataFits t := by
  cases hu with
  | setName name hlen => exact { h with boardName := hlen }
  | setOut k v hk => exact { h with outRec := Region.wf_write v h.outRec hk }
  | setRx i b hi => exact { h with rxArea := Region.wf_write b h.rxArea hi }
  | payloadAt ws d ps hlen => exact { h with outRec := Region.wf_filled ws d hlen }
  | reset => exact dataFits_hardReset h.nullHandle
  | storeIn ws hlen => exact { h with inRec := Region.wf_filled ws _ hlen }
  | voidIn => exact { h with inRec := Region.wf_unspecified .. }
  | storeTx bs hlen => exact { h with txBuf := Region.wf_filled bs _ hlen }
  | storeRx d => exact { h with rxArea := Region.wf_filled _ _ (List.length_take_le ..) }
  | voidRx => exact { h with rxArea := Region.wf_unspecified .. }
  | storeRb d => exact { h with rbBuf := Region.wf_filled _ _ (List.length_take_le ..) }
  | voidRb => exact { h with rbBuf := Region.wf_unspecified .. }
  | holdDrv a => exact { h with drvH := a.handle_lt s.cfg }
  | holdCh a => exact { h with chH := a.handle_lt s.cfg }
  | dropDrv => exact { h with drvH := h.nullHandle }
  | dropCh => exact { h with chH := h.nullHandle }
  | hostTaken | setCmd | setArg | portsAt | ctrlAt | observe | hang | begin | loopOn | withReply | finish | consumeTx
  | noteRbCode | moveTo => exact { h with }

/-- Settles O53: a step is a chain of updates, and each of them keeps the invariant. -/
theorem stepKeepsDataInvariant : Obligations.StepKeepsDataInvariant := by
  intro s t hs hstep
  rw [dataInv_iff] at hs ⊢
  exact step_keeps Update.dataFits hstep hs

end Sys2Proof.Machine

/-! SUPPORT. The family of `10_state.md`: the parameters (R30), the values after reset (R33), the host's accesses (R24
to R28, R227), and the session invariant (R22, R23, R188): first the commands that only move data, by one rule for any
property such a command carries along, then the three commands that change what is held. -/

namespace Sys2Proof.Machine

/-! ### The parameters -/

/-- The parameters are written by no update (R30). -/
theorem Update.cfg_eq {s t : State} (hu : Update s t) : t.cfg = s.cfg := by
  cases hu <;> rfl

/-- Settles O58: a step is a chain of updates, none of which writes the parameters. -/
theorem parametersAreNeverWritten : Obligations.ParametersAreNeverWritten := by
  intro s t hstep
  exact step_keeps (P := fun u => u.cfg = s.cfg) (fun hu hcfg => hu.cfg_eq.trans hcfg) hstep rfl

/-! ### The values after reset -/

theorem cleared_atReset (c : Config) (n : Nat) : (State.cleared c n).atReset :=
  have unspecified {w : Nat} (d k : Nat) : (Region.unspecified w d).specified k = false :=
    Region.specified_unspecified d k
  ⟨rfl, rfl, rfl, rfl, rfl, rfl, rfl, rfl,
    unspecified _, unspecified _, unspecified _, unspecified _, unspecified _,
    rfl, rfl, rfl, rfl, rfl, rfl, rfl, rfl, rfl, rfl⟩

/-- Settles O10. -/
theorem resetStateValues : Obligations.ResetStateValues :=
  ⟨cleared_atReset Config.reference 0, rfl⟩

/-- A cleared block meets the session invariant: idle, `Closed`, no handle held (R22, R33). -/
theorem sessionInv_cleared (c : Config) (n : Nat) : (State.cleared c n).sessionInv = true := rfl

/-- A cleared block meets the data invariant if its null handle fits `HANDLE_BITS`. -/
theorem dataFits_cleared {c : Config} (n : Nat) (h : c.nullHandle < 2 ^ c.handleBits) :
    DataFits (State.cleared c n) where
  inRec := Region.wf_unspecified ..
  outRec := Region.wf_unspecified ..
  rxArea := Region.wf_unspecified ..
  txBuf := Region.wf_unspecified ..
  rbBuf := Region.wf_unspecified ..
  boardName := Nat.zero_le _
  nullHandle := h
  drvH := h
  chH := h

/-- Settles O54. -/
theorem invariantsHoldAtReset : Obligations.InvariantsHoldAtReset :=
  have null_fits : Config.reference.nullHandle < 2 ^ Config.reference.handleBits := Nat.two_pow_pos 64
  ⟨sessionInv_cleared _ _, (dataInv_iff _).mpr (dataFits_cleared 0 null_fits)⟩

/-! ### The host's accesses -/

/-- What an item of a region reads as after a write. -/
theorem Region.read_write {w : Nat} (r : Region w) (i j : Nat) (v : BitVec w) :
    (r.write i v).read j = if j = i then v else r.read j := by
  split
  next h => rw [h, Region.read_write_same]
  next h => exact Region.read_write_ne r v (Ne.symm h)

theorem hostTurn_of_idle {s : State} (a : HostAction) (h : s.busy = false) : hostTurn a s = hostIdle a s := by
  simp [hostTurn, h]

theorem hostTurn_of_busy {s : State} (a : HostAction) (h : s.busy = true) : hostTurn a s = hostBusy a s := by
  simp [hostTurn, h]

/-- A read is answered whether or not a command runs (R227). -/
theorem hostTurn_get (r : HostReg) (s : State) : hostTurn (.get r) s = hostRead r s := by
  cases h : s.busy with
  | false => exact hostTurn_of_idle _ h
  | true => exact hostTurn_of_busy _ h

theorem hostRead_of_some {r : HostReg} {s : State} {x : HostValue} (h : hostGet s.cfg s.visible r = some x) :
    hostRead r s = .next (s.observe (.got r x)) := by
  simp only [hostRead, h]

theorem hostRead_of_none {r : HostReg} {s : State} (h : hostGet s.cfg s.visible r = none) :
    hostRead r s = .fault .noSuchLocation := by
  simp only [hostRead, h]

/-- A bit reads as its number. -/
theorem getBit_eq (b : Bool) : getBit b = some (.bits (BitVec.ofNat 32 b.toNat)) := by
  cases b <;> rfl

/-- An item of a region reads as its number. -/
theorem getItem_eq {w : Nat} (size : Nat) (r : Region w) (i : Nat) :
    getItem size r i = if i < size then some (.bits (BitVec.ofNat 32 (r.read i).toNat)) else none := by
  simp only [getItem, BitVec.ofNat_toNat]

/-- Settles O8: the writes by the bound each is checked against, the reads by the number of what they name. -/
theorem hostWritesLand : Obligations.HostWritesLand := by
  unfold Obligations.HostWritesLand
  refine ⟨fun _ _ => rfl, fun _ _ => rfl, fun s n hidle => ?boardName, fun s k v hidle => ?outRec,
    fun s i b hidle => ?rxArea, fun s r => ?read, fun s => ⟨?scalars, rfl, rfl, ?_, ?_, ?_, ?_, ?_⟩⟩
  case boardName =>
    rw [hostTurn_of_idle _ hidle]
    exact ⟨fun h => if_pos h, fun h => if_neg (Nat.not_le.mpr h)⟩
  case outRec =>
    rw [hostTurn_of_idle _ hidle]
    exact ⟨fun h => ⟨_, if_pos h, fun j => Region.read_write s.outRec k j v⟩, fun h => if_neg (Nat.not_lt.mpr h)⟩
  case rxArea =>
    rw [hostTurn_of_idle _ hidle]
    exact ⟨fun h => ⟨_, if_pos h, fun j => Region.read_write s.rxArea i j b⟩, fun h => if_neg (Nat.not_lt.mpr h)⟩
  case read =>
    rw [hostTurn_get]
    exact ⟨fun x h => hostRead_of_some h, hostRead_of_none⟩
  case scalars => simp [hostGet, getBit_eq]
  all_goals exact fun i => getItem_eq _ _ i

/-! ### Commands that only move data

DECODE, ENCODE, READ, WRITE and TICK touch neither the handles nor the operands, and `STATE` only from `BusOn` to
`Active`. A property that their updates keep is carried to what comes after them. -/

/-- The history entry is one that moving data makes: a transfer, an event, a poll or the pacing wait. -/
def Obs.ofExchange : Obs → Bool
  | .event _ => true
  | .poll _ => true
  | .wait _ => true
  | o => o.isTransfer

/-- `t` comes from `s` by one elementary update of a command that only moves data. -/
inductive DataUpdate (s : State) : State → Prop where
  | portsAt (c : List PortEvent) (l : List ResetInput) (d : Nat) : DataUpdate s (s.portsAt c l d)
  | ctrlAt (cs : List (BitVec 2)) (d : Nat) : DataUpdate s (s.ctrlAt cs d)
  | payloadAt (o : RegFile) (ps : List (List Word)) : DataUpdate s (s.payloadAt o ps)
  | observe (o : Obs) (h : o.ofExchange = true) : DataUpdate s (s.observe o)
  | storeIn (ws : List Word) : DataUpdate s (storeIn ws s)
  | voidIn : DataUpdate s (voidIn s)
  | storeTx (bs : List Byte) : DataUpdate s (storeTx bs s)
  | consumeTx : DataUpdate s (consumeTx s)
  | storeRx (d : List Byte) : DataUpdate s (storeRx d s)
  | voidRx : DataUpdate s (voidRx s)
  | storeRb (d : List Byte) : DataUpdate s (storeRb d s)
  | voidRb : DataUpdate s (voidRb s)
  | noteRbCode (c : Word32) : DataUpdate s (noteRbCode c s)
  | enterActive : DataUpdate s (enterActive s)

/-- `Q` is a property of a running command that moving data keeps, and `P` holds of the state a reset or a silent
collaborator leaves of it. Then `hc.through_f` says: if `P` holds of what comes after `f` wherever `Q` does, it holds of
`f` and what comes after it. -/
structure Carried (Q P : State → Prop) : Prop where
  keep {s t : State} : DataUpdate s t → Q s → Q t
  reset {s : State} : Q s → P (hardReset s)
  silent {s : State} {p : Primitive} : (∀ a v, (Obs.call p a v).ofExchange = true) → Q s → P (hang p s)

section
variable {Q P : State → Prop} {s : State}

theorem Carried.through_orReset (hc : Carried Q P) {k : State → State} (hs : Q s) (hk : ∀ u, Q u → P (k u)) :
    P (orReset s k) :=
  have hports (l) : Q (s.portsAt s.collab l s.draws) := hc.keep (.portsAt ..) hs
  orReset_elim (fun l => hk _ (hports l)) (fun l => hc.reset (hports l))

theorem Carried.through_callThen (hc : Carried Q P) {p : Primitive} {k : Answer → State → State}
    (hp : ∀ a v, (Obs.call p a v).ofExchange = true) (hs : Q s) (hk : ∀ a u, Q u → P (k a u)) :
    P (callThen p s k) :=
  have hcall (a c l d) : Q ((s.portsAt c l d).observe (.call p a s.visible)) :=
    hc.keep (.observe _ (hp a _)) (hc.keep (.portsAt c l d) hs)
  callThen_elim
    (before := fun _ => hc.reset (hc.keep (.portsAt ..) hs))
    (during := fun _ _ _ => hc.reset (hcall ..))
    (silent := fun _ _ => hc.silent hp (hcall ..))
    (answered := fun a _ _ _ => hk a _ (hcall ..))

theorem Carried.through_waitThen (hc : Carried Q P) {k : State → State} (hs : Q s) (hk : ∀ u, Q u → P (k u)) :
    P (waitThen s k) :=
  have hports (l) : Q (s.portsAt s.collab l s.draws) := hc.keep (.portsAt ..) hs
  have hwait (l) : Q ((s.portsAt s.collab l s.draws).observe (.wait s.cfg.pacingMs)) :=
    hc.keep (.observe _ rfl) (hports l)
  waitThen_elim
    (waited := fun l => hk _ (hwait l))
    (before := fun l => hc.reset (hports l))
    (during := fun l => hc.reset (hwait l))

theorem Carried.through_emitThen (hc : Carried Q P) {e : Event} {k : State → State} (hs : Q s)
    (hk : ∀ u, Q u → P (k u)) : P (emitThen e s k) :=
  hc.through_orReset hs fun _ hu => hk _ (hc.keep (.observe _ rfl) hu)

theorem Carried.through_pollThen (hc : Carried Q P) {k : Signal → State → State} (hs : Q s)
    (hk : ∀ sig u, Q u → P (k sig u)) : P (pollThen s k) :=
  hc.through_orReset hs fun u hu => by
    obtain ⟨ctrl, cs, d, hpoll⟩ := pollControl_cases u
    rw [hpoll]
    exact hk _ _ (hc.keep (.observe _ rfl) (hc.keep (.ctrlAt cs d) hu))

theorem Carried.keep_decodeBody (hc : Carried Q P) (len : Nat) (hs : Q s) : Q (decodeBody len s).2 := by
  obtain ⟨-, h⟩ | ⟨-, h⟩ | ⟨-, -, h⟩ := decodeBody_cases len s <;> rw [h]
  · exact hs
  · exact hc.keep .voidIn hs
  · exact hc.keep (.storeIn _) hs

theorem Carried.keep_encodeBody (hc : Carried Q P) (hs : Q s) : Q (encodeBody s).2 := by
  obtain ⟨-, h⟩ | ⟨-, h⟩ := encodeBody_cases s <;> rw [h]
  · exact hc.keep .consumeTx hs
  · exact hc.keep (.storeTx _) hs

theorem Carried.keep_loadPayload (hc : Carried Q P) (hs : Q s) : Q (loadPayload s) := by
  obtain ⟨ws, ps, h⟩ := loadPayload_cases s
  rw [h]
  exact hc.keep (.payloadAt _ _) hs

end

section
variable {Q P : State → Prop} {s : State} {k : Reply → State → State}

theorem Carried.through_readBody (hc : Carried Q P) (t : Word32) (hs : Q s) (hk : ∀ r u, Q u → P (k r u)) :
    P (readBody t s k) := by
  unfold readBody
  split
  · refine hc.through_callThen (fun _ _ => rfl) (hc.keep .voidIn hs) fun a u hu => ?_
    split
    · exact hk _ _ (hc.keep .voidRx hu)
    · exact hk _ _ (hc.keep .enterActive (hc.keep (.storeRx _) hu))
  · exact hk _ _ hs

theorem Carried.through_readBackThen (hc : Carried Q P) (t : Word32) (hs : Q s) (hk : ∀ r u, Q u → P (k r u)) :
    P (readBackThen t s k) :=
  hc.through_callThen (fun _ _ => rfl) hs fun a u hu => by
    split
    · exact hk _ _ (hc.keep .voidRb (hc.keep (.noteRbCode _) hu))
    · exact hk _ _ (hc.keep (.storeRb _) hu)

theorem Carried.through_writeBody (hc : Carried Q P) (v : Bool) (t : Word32) (hs : Q s)
    (hk : ∀ r u, Q u → P (k r u)) : P (writeBody v t s k) := by
  unfold writeBody
  split
  · refine hc.through_callThen (fun _ _ => rfl) (hc.keep .consumeTx hs) fun a u hu => ?_
    have hactive : Q (enterActive u) := hc.keep .enterActive hu
    split
    · exact hk _ _ hu
    · split
      · exact hc.through_readBackThen t hactive hk
      · exact hk _ _ hactive
  · exact hk _ _ hs

theorem Carried.through_tickDecode (hc : Carried Q P) (r : Reply) {j : State → State} (hs : Q s)
    (hj : ∀ u, Q u → P (j u)) : P (tickDecode r s j) := by
  have hd : Q (decodeBody inAreaBytes s).2 := hc.keep_decodeBody _ hs
  unfold tickDecode
  split
  · dsimp only
    split
    · exact hc.through_emitThen hd hj
    · exact hc.through_emitThen hd hj
  · exact hc.through_emitThen hs hj

theorem Carried.through_tickWait (hc : Carried Q P) (vr : Verify) (rbc : Word32) (hs : Q s)
    (hk : ∀ r u, Q u → P (k r u)) : P (tickWait vr rbc s k) :=
  hc.through_waitThen hs (hk _)

theorem Carried.through_tickWrite (hc : Carried Q P) (t : Word32) (hs : Q s) (hk : ∀ r u, Q u → P (k r u)) :
    P (tickWrite t s k) := by
  have he : Q (encodeBody (loadPayload s)).2 := hc.keep_encodeBody (hc.keep_loadPayload hs)
  have hwait (vr rbc u) (hu : Q u) : P (tickWait vr rbc u k) := hc.through_tickWait vr rbc hu hk
  unfold tickWrite
  dsimp only
  split
  · exact hc.through_emitThen he (hwait _ _)
  · refine hc.through_writeBody true t he fun w u hu => ?_
    split
    · exact hc.through_emitThen hu (hwait _ _)
    · exact hc.through_emitThen hu (hwait _ _)

theorem Carried.through_tickPoll (hc : Carried Q P) (t : Word32) (hs : Q s) (hk : ∀ r u, Q u → P (k r u)) :
    P (tickPoll t s k) :=
  hc.through_pollThen hs fun sig u hu => by
    cases sig with
    | cont => exact hc.through_tickWait _ _ hu hk
    | writeNow => exact hc.through_tickWrite t hu hk
    | terminate => exact hk _ _ hu

theorem Carried.through_tickBody (hc : Carried Q P) (t : Word32) (hs : Q s) (hk : ∀ r u, Q u → P (k r u)) :
    P (tickBody t s k) := by
  unfold tickBody
  split
  · exact hc.through_readBody t hs fun r _ hu => hc.through_tickDecode r hu fun _ hv => hc.through_tickPoll t hv hk
  · exact hk _ _ hs

end

/-! ### The session invariant: where a command stops -/

theorem noHandles_iff (s : State) : s.noHandles = true ↔ s.drvValid = false ∧ s.chValid = false := by
  simp [State.noHandles]

theorem bothHandles_iff (s : State) :
    s.bothHandles = true ↔
      s.drvValid = true ∧ s.chValid = true ∧ s.drvH ≠ s.cfg.nullHandle ∧ s.chH ≠ s.cfg.nullHandle := by
  simp [State.bothHandles, and_assoc]

theorem sessionInv_idle {s : State} (h : s.activity = .idle) :
    s.sessionInv = true ↔ s.busy = false ∧ s.sessionFits = true := by
  simp [State.sessionInv, h]

theorem sessionInv_runLoop {s : State} {t : Word32} (h : s.activity = .runLoop t) :
    s.sessionInv = true ↔ s.busy = true ∧ s.ready = true ∧ s.bothHandles = true := by
  simp [State.sessionInv, h, and_assoc]

theorem sessionInv_hung {s : State} {p : Primitive} (h : s.activity = .hung p) :
    s.sessionInv = true ↔ s.busy = true := by
  simp [State.sessionInv, h]

/-- Under the invariant no command runs while `BUSY` = 0 (R23). -/
theorem activity_of_sessionInv {s : State} (h : s.sessionInv = true) (hb : s.busy = false) : s.activity = .idle := by
  cases ha : s.activity with
  | idle => rfl
  | runLoop t => simp [sessionInv_runLoop ha, hb] at h
  | hung p => simp [sessionInv_hung ha, hb] at h

/-- In a ready session R22 asks for both handles. -/
theorem sessionFits_of_ready {s : State} (h : s.ready = true) : s.sessionFits = s.bothHandles := by
  obtain hsess | hsess := (ready_iff s).mp h <;> simp [State.sessionFits, hsess]

theorem sessionFits_of_closed {s : State} (hsess : s.sess = .closed) (h : s.noHandles = true) :
    s.sessionFits = true := by
  simpa [State.sessionFits, hsess] using h

theorem hardReset_sessionInv (s : State) : (hardReset s).sessionInv = true := rfl

theorem hang_sessionInv {s : State} (p : Primitive) (h : s.busy = true) : (hang p s).sessionInv = true :=
  (sessionInv_hung (hang_activity ..)).mpr h

theorem respond_sessionInv (r : Reply) {s : State} (h : s.sessionFits = true) : (respond r s).sessionInv = true :=
  (sessionInv_idle (respond_activity ..)).mpr ⟨rfl, h⟩

/-- A command that responds in a state as R22 describes it leaves the invariant. -/
theorem endCommand_sessionInv (r : Reply) {s : State} (h : s.sessionFits = true) :
    (endCommand r s).sessionInv = true :=
  orReset_elim (P := fun t => t.sessionInv = true)
    (fun _ => respond_sessionInv r h)
    (fun _ => hardReset_sessionInv _)

/-- Only what comes after the answer of a call has to be looked at. -/
theorem callThen_sessionInv {p : Primitive} {s : State} {k : Answer → State → State} (hb : s.busy = true)
    (hk : ∀ a c l d, (k a ((s.portsAt c l d).observe (.call p (some a) s.visible))).sessionInv = true) :
    (callThen p s k).sessionInv = true :=
  callThen_elim (P := fun t => t.sessionInv = true)
    (before := fun _ => hardReset_sessionInv _)
    (during := fun _ _ _ => hardReset_sessionInv _)
    (silent := fun _ _ => hang_sessionInv p hb)
    (answered := hk)

/-! ### The session invariant: commands that only move data -/

/-- A command runs, the handles fit `STATE` (R22), and whether the session is ready and what goes on are as given. -/
structure InCommand (act : Activity) (ready : Bool) (s : State) : Prop where
  busy : s.busy = true
  activity : s.activity = act
  ready : s.ready = ready
  fits : s.sessionFits = true

/-- `BusOn` to `Active` changes neither whether the session is ready nor which handles R22 asks for (R162). -/
theorem enterActive_inCommand {act : Activity} {ready : Bool} {s : State} (h : InCommand act ready s) :
    InCommand act ready (enterActive s) := by
  unfold enterActive
  split
  next hsess =>
    have hready : s.ready = true := (ready_iff s).mpr (.inl hsess)
    have hboth : s.bothHandles = true := sessionFits_of_ready hready ▸ h.fits
    exact { busy := h.busy, activity := h.activity, ready := hready.symm.trans h.ready, fits := hboth }
  next => exact h

/-- Moving data writes neither `BUSY` nor a handle, and `STATE` as R162 allows only. -/
theorem carried_inCommand (act : Activity) (ready : Bool) :
    Carried (InCommand act ready) (fun t => t.sessionInv = true) where
  keep hu h := by
    cases hu with
    | enterActive => exact enterActive_inCommand h
    | _ => exact { h with }
  reset _ := hardReset_sessionInv _
  silent _ h := hang_sessionInv _ h.busy

/-! ### The session invariant: OPEN, NEGOTIATE and CLOSE -/

section
variable {s : State} {k : Reply → State → State}

/-- `Release()` goes on with no handle held (R143). -/
theorem releaseThen_sessionInv {k : State → State} (hb : s.busy = true)
    (hk : ∀ u, u.busy = true → u.noHandles = true → (k u).sessionInv = true) :
    (releaseThen s k).sessionInv = true := by
  have hdrv (u : State) (hub : u.busy = true) (hch : u.chValid = false) :
      (releaseDrvThen u k).sessionInv = true := by
    unfold releaseDrvThen
    split
    next => exact callThen_sessionInv hub fun _ _ _ _ => hk _ hub ((noHandles_iff _).mpr ⟨rfl, hch⟩)
    next h => exact hk _ hub ((noHandles_iff _).mpr ⟨Bool.eq_false_of_not_eq_true h, hch⟩)
  unfold releaseThen
  split
  next => exact callThen_sessionInv hb fun _ _ _ _ => hdrv _ hb rfl
  next h => exact hdrv _ hb (Bool.eq_false_of_not_eq_true h)

/-- CLOSE goes on in `Closed` with no handle held, from any session (R148). -/
theorem closeBody_sessionInv (hb : s.busy = true)
    (hk : ∀ r u, u.sessionFits = true → (k r u).sessionInv = true) : (closeBody s k).sessionInv = true :=
  releaseThen_sessionInv hb fun _ _ hnone => hk _ _ (sessionFits_of_closed rfl hnone)

theorem negotiationFails_sessionInv (ph : Phase) (code : Word32) (hb : s.busy = true)
    (hk : ∀ r u, u.sessionFits = true → (k r u).sessionInv = true) :
    (negotiationFails ph code s k).sessionInv = true :=
  releaseThen_sessionInv hb fun _ _ hnone => hk _ _ (sessionFits_of_closed rfl hnone)

/-- An answer that grants a handle grants another one than the null handle (R141). -/
theorem handle_ne_null_of_granted {c : Config} {a : Answer} (h : ¬ a.noHandle c = true) :
    a.handle c ≠ c.nullHandle := by
  simp only [Answer.noHandle, Bool.or_eq_true, beq_iff_eq, not_or] at h
  exact h.2

theorem dropDrv_sessionFits (hsess : s.sess = .closed) (hch : s.chValid = false) :
    (dropDrv s).sessionFits = true :=
  sessionFits_of_closed hsess ((noHandles_iff _).mpr ⟨rfl, hch⟩)

theorem holdCh_sessionFits {h : Handle} (hdrv : s.drvValid = true) (hnull : s.drvH ≠ s.cfg.nullHandle)
    (hh : h ≠ s.cfg.nullHandle) : (holdCh h s).sessionFits = true :=
  (bothHandles_iff _).mpr ⟨hdrv, rfl, hnull, hh⟩

/-- OPEN from `Closed` with the driver handle held: with a channel handle both are held, without one the driver handle
is given back (R141, R142 (b)). -/
theorem openChannel_sessionInv (hb : s.busy = true) (hsess : s.sess = .closed) (hch : s.chValid = false)
    (hdrv : s.drvValid = true) (hnull : s.drvH ≠ s.cfg.nullHandle)
    (hk : ∀ r u, u.sessionFits = true → (k r u).sessionInv = true) : (openChannel s k).sessionInv = true :=
  callThen_sessionInv hb fun a _ _ _ => by
    split
    next =>
      refine callThen_sessionInv hb fun _ _ _ _ => hk _ _ ?_
      exact dropDrv_sessionFits (by simpa using hsess) (by simpa using hch)
    next hgot =>
      exact hk _ _ (holdCh_sessionFits hdrv hnull (handle_ne_null_of_granted hgot))

theorem openBody_sessionInv (hb : s.busy = true) (hfits : s.sessionFits = true)
    (hk : ∀ r u, u.sessionFits = true → (k r u).sessionInv = true) : (openBody s k).sessionInv = true := by
  unfold openBody
  split
  next hsess =>
    have hnone : s.noHandles = true := by simpa [State.sessionFits, hsess] using hfits
    obtain ⟨-, hch⟩ := (noHandles_iff s).mp hnone
    refine callThen_sessionInv hb fun a _ _ _ => ?_
    split
    next => exact hk _ _ hfits
    next hgot =>
      have hgranted := handle_ne_null_of_granted hgot
      exact openChannel_sessionInv hb hsess hch rfl hgranted hk
  next => exact hk _ _ hfits

/-- NEGOTIATE leaves `Opened` with both handles kept, or for `Closed` with both given back (R144). -/
theorem negotiateBody_sessionInv (hb : s.busy = true) (hfits : s.sessionFits = true)
    (hk : ∀ r u, u.sessionFits = true → (k r u).sessionInv = true) : (negotiateBody s k).sessionInv = true := by
  unfold negotiateBody
  split
  next hsess =>
    have hboth : s.bothHandles = true := by simpa [State.sessionFits, hsess] using hfits
    refine callThen_sessionInv hb fun _ _ _ _ => ?_
    split
    next => exact negotiationFails_sessionInv _ _ hb hk
    next =>
      refine callThen_sessionInv hb fun _ _ _ _ => ?_
      split
      next => exact negotiationFails_sessionInv _ _ hb hk
      next => exact hk _ _ hboth
  next => exact hk _ _ hfits

end

/-! ### The session invariant: RUN, and the step -/

theorem runClose_sessionInv (r : Reply) {s : State} (hb : s.busy = true) : (runClose r s).sessionInv = true :=
  closeBody_sessionInv hb fun _ _ hfits => endCommand_sessionInv r hfits

/-- A tick of a RUN that loops: it closes, or it stands between two ticks again in a ready session (R188). -/
theorem runTick_sessionInv {s : State} {t : Word32} (hact : s.activity = .runLoop t) (h : s.sessionInv = true) :
    (runTick t s).sessionInv = true := by
  obtain ⟨hb, hready, hboth⟩ := (sessionInv_runLoop hact).mp h
  have hs : InCommand (.runLoop t) true s := ⟨hb, hact, hready, (sessionFits_of_ready hready).trans hboth⟩
  refine (carried_inCommand _ _).through_tickBody t hs fun r u hu => ?_
  split
  next => exact runClose_sessionInv _ hu.busy
  next => exact (sessionInv_runLoop hu.activity).mpr ⟨hu.busy, hu.ready, sessionFits_of_ready hu.ready ▸ hu.fits⟩

theorem advance_sessionInv {s : State} (h : s.sessionInv = true) : (advance s).sessionInv = true := by
  unfold advance
  split
  next => exact h
  next t hact => exact runTick_sessionInv hact h
  next => exact h

/-- A command accepted in a state as R22 describes it leaves the invariant. -/
theorem exec_sessionInv {i : Instr} {s t : State} (hfits : s.sessionFits = true) (h : exec i s = .next t) :
    t.sessionInv = true := by
  have hs : InCommand s.activity s.ready s.begin := ⟨rfl, rfl, rfl, hfits⟩
  have hc := carried_inCommand s.activity s.ready
  have hfin (r u) (hu : u.sessionFits = true) : (endCommand r u).sessionInv = true := endCommand_sessionInv r hu
  have hend (r u) (hu : InCommand s.activity s.ready u) : (endCommand r u).sessionInv = true := hfin r u hu.fits
  cases i with
  | decode len => cases h; exact hend _ _ (hc.keep_decodeBody _ hs)
  | encode => cases h; exact hend _ _ (hc.keep_encodeBody hs)
  | openCh => cases h; exact openBody_sessionInv rfl hfits hfin
  | negotiate => cases h; exact negotiateBody_sessionInv rfl hfits hfin
  | close => cases h; exact closeBody_sessionInv rfl hfin
  | read t => cases h; exact hc.through_readBody t hs hend
  | write v t => cases h; exact hc.through_writeBody v t hs hend
  | tick t => cases h; exact hc.through_tickBody t hs hend
  | run t =>
    cases h
    split
    next hready =>
      have hboth : s.bothHandles = true := sessionFits_of_ready hready ▸ hfits
      exact runTick_sessionInv rfl ((sessionInv_runLoop rfl).mpr ⟨rfl, hready, hboth⟩)
    next => exact runClose_sessionInv _ rfl

theorem accept_sessionInv {s t : State} (hfits : s.sessionFits = true) (h : accept s = .next t) :
    t.sessionInv = true := by
  unfold accept at h
  split at h
  next => exact exec_sessionInv hfits h
  next => cases h; exact endCommand_sessionInv _ hfits

theorem hostRead_sessionInv {r : HostReg} {s t : State} (hs : s.sessionInv = true) (h : hostRead r s = .next t) :
    t.sessionInv = true := by
  unfold hostRead at h
  split at h <;> cases h
  exact hs

/-- The host's accesses write no register the invariant speaks of; its frame finds the block as R22 describes it. -/
theorem hostIdle_sessionInv {a : HostAction} {s t : State} (hb : s.busy = false) (hs : s.sessionInv = true)
    (h : hostIdle a s = .next t) : t.sessionInv = true := by
  cases a with
  | setCmd | setArg => cases h; exact hs
  | setBoardName name =>
    simp only [hostIdle, hostSetName] at h
    split at h <;> cases h
    exact hs
  | setOutRec k v =>
    simp only [hostIdle, hostSetOut] at h
    split at h <;> cases h
    exact hs
  | setRxArea i b =>
    simp only [hostIdle, hostSetRx] at h
    split at h <;> cases h
    exact hs
  | get r => exact hostRead_sessionInv hs h
  | present =>
    have hact : s.activity = .idle := activity_of_sessionInv hs hb
    exact accept_sessionInv ((sessionInv_idle hact).mp hs).2 h
  | wait => cases h; exact advance_sessionInv hs
  | reset => cases h; exact hardReset_sessionInv s

theorem hostBusy_sessionInv {a : HostAction} {s t : State} (hs : s.sessionInv = true)
    (h : hostBusy a s = .next t) : t.sessionInv = true := by
  cases a with
  | get r => exact hostRead_sessionInv hs h
  | wait => cases h; exact advance_sessionInv hs
  | reset => cases h; exact hardReset_sessionInv s
  | setCmd | setArg | setBoardName | setOutRec | setRxArea | present => cases h; exact hs

theorem hostTurn_sessionInv {a : HostAction} {s t : State} (hs : s.sessionInv = true)
    (h : hostTurn a s = .next t) : t.sessionInv = true := by
  cases hb : s.busy with
  | true => exact hostBusy_sessionInv hs ((hostTurn_of_busy a hb).symm.trans h)
  | false => exact hostIdle_sessionInv hb hs ((hostTurn_of_idle a hb).symm.trans h)

/-- Settles O52: the invariant is kept by a turn of the host, to which the action taken from the port makes no
difference, and by the block going on by itself. -/
theorem stepKeepsSessionInvariant : Obligations.StepKeepsSessionInvariant := by
  intro s t hs hstep
  cases hport : s.hostPort with
  | nil =>
    simp only [step, hport] at hstep
    cases hstep
    exact advance_sessionInv hs
  | cons a rest =>
    rw [step_of_hostPort hport] at hstep
    have htaken : { s with hostPort := rest }.sessionInv = true := hs
    exact hostTurn_sessionInv htaken hstep

end Sys2Proof.Machine

/-! SUPPORT. The family of `20_memory.md`: what a step can add to the history, and from it the transfers (R63, R68). -/

namespace Sys2Proof.Machine

/-! ### The history -/

/-- An update adds to the history at most one entry, and one the block can make. -/
theorem Update.mem_history {s t : State} (hu : Update s t) {o : Obs} (ho : o ∈ t.history) :
    o ∈ s.history ∨ o.made s.cfg := by
  have appended {e : Obs} (he : e.made s.cfg) (hmem : o ∈ s.history ++ [e]) : o ∈ s.history ∨ o.made s.cfg := by
    obtain hold | hnew := List.mem_append.mp hmem
    · exact .inl hold
    · exact .inr (List.mem_singleton.mp hnew ▸ he)
  cases hu with
  | observe e he => exact appended he ho
  | reset => exact appended ⟨rfl, rfl⟩ ho
  | _ => exact .inl ho

theorem Reaches.cfg_eq {s t : State} (h : Reaches s t) : t.cfg = s.cfg :=
  h.keeps (P := fun u => u.cfg = s.cfg) (fun hu hcfg => hu.cfg_eq.trans hcfg) rfl

/-- Along a chain of updates, too, every new entry is one the block can make: the parameters it is measured by stay. -/
theorem Reaches.mem_history {s t : State} (h : Reaches s t) {o : Obs} (ho : o ∈ t.history) :
    o ∈ s.history ∨ o.made s.cfg := by
  induction h with
  | refl => exact .inl ho
  | tail hchain hu ih =>
    obtain hold | hmade := hu.mem_history ho
    · exact ih hold
    · exact .inr (Reaches.cfg_eq hchain ▸ hmade)

/-! ### The transfers -/

/-- Settles O59: an entry after a step is an old one, or one the block can make, and what the block can make moves a
whole area. -/
theorem transfersMoveWholeAreas : Obligations.TransfersMoveWholeAreas := by
  intro s t hs hstep o ho
  rw [parametersAreNeverWritten s t hstep]
  obtain hold | ⟨hwhole, -⟩ := (step_reaches hstep).mem_history ho
  · exact hs o hold
  · exact hwhole

end Sys2Proof.Machine

/-! SUPPORT. The family of `30_encoding.md`: the command frame and its decoder (R98 to R102), the response frame (R103),
the places of the named fields (R91 to R94), and an ENCODE whose record does not fit (R97). -/

namespace Sys2Proof

/-! ### What decodes, and to what -/

/-- A frame decodes to `i` exactly if its reserved bits are 0, its `V` is where WRITE has it, and its `OPC` selects
`i` (R101). -/
theorem decodeFrame_eq_ok_iff (f : Frame) (i : Instr) :
    decodeFrame f = .ok i ↔
      f.rsv = 0#23 ∧ (f.v = true → f.opc = 0x21#8) ∧ instrOf f.opc f.v f.arg = some i := by
  obtain ⟨hr, hd⟩ | ⟨hr, hv, ho, hd⟩ | ⟨hr, hv, hn, hd⟩ | ⟨j, hr, hv, hj, hd⟩ := decodeFrame_cases f
  · simp [hd, hr]
  · simp [hd, hv, ho]
  · simp [hd, hn]
  · simpa [hd, hr, hj] using fun _ => hv

/-- A command's own fields select it (R99, R100). -/
theorem instrOf_fields (i : Instr) : instrOf i.opc i.verifyFlag i.argWord = some i := by
  cases i <;> rfl

/-- Only WRITE has a verify flag (R98). -/
theorem opc_of_verifyFlag {i : Instr} (h : i.verifyFlag = true) : i.opc = 0x21#8 := by
  cases i with
  | write v t => rfl
  | _ => exact nomatch h

/-- A selected command has the verify flag it was selected with, if that is set on WRITE alone. -/
theorem verifyFlag_of_instrOf {o : BitVec 8} {v : Bool} {a : Word32} {i : Instr} (h : instrOf o v a = some i)
    (hv : v = true → o = 0x21#8) : i.verifyFlag = v := by
  cases v with
  | false =>
    unfold instrOf at h
    split at h <;> cases h <;> rfl
  | true =>
    rw [hv rfl] at h
    cases h
    rfl

/-- A selected command has the operand word it was selected with, or ignores it (R99). -/
theorem argWord_of_instrOf {o : BitVec 8} {v : Bool} {a : Word32} {i : Instr} (h : instrOf o v a = some i) :
    i.argWord = a ∨ i = .encode ∨ i = .openCh ∨ i = .negotiate ∨ i = .close := by
  unfold instrOf at h
  split at h <;> cases h <;> simp [Instr.argWord]

/-- Decoding what a command encodes to gives the command. -/
theorem decodeFrame_encodeInstr (i : Instr) : decodeFrame (encodeInstr i) = .ok i := by
  rw [decodeFrame_eq_ok_iff, encodeInstr_rsv, encodeInstr_v, encodeInstr_opc]
  exact ⟨rfl, opc_of_verifyFlag, instrOf_fields i⟩

/-- A frame that decodes has the `CMD` of its command: the three fields of `CMD` are the command's. -/
theorem encodeInstr_cmd_of_decodeFrame {f : Frame} {i : Instr} (h : decodeFrame f = .ok i) :
    (encodeInstr i).cmd = f.cmd := by
  obtain ⟨hrsv, hv, hsel⟩ := (decodeFrame_eq_ok_iff f i).mp h
  calc (encodeInstr i).cmd = cmdOf 0#23 i.verifyFlag i.opc := encodeInstr_cmd i
    _ = cmdOf f.rsv f.v f.opc := by rw [hrsv, verifyFlag_of_instrOf hsel hv, opc_of_instrOf hsel]
    _ = f.cmd := cmdOf_fields f.cmd

/-- Settles O2: the decoder reads the three fields of `CMD`, and the encoder writes the same three. -/
theorem decodeAndEncodeAgree : Obligations.DecodeAndEncodeAgree := by
  refine ⟨decodeFrame_encodeInstr, fun f i h => ⟨encodeInstr_cmd_of_decodeFrame h, ?_⟩⟩
  obtain ⟨-, -, hsel⟩ := (decodeFrame_eq_ok_iff f i).mp h
  exact argWord_of_instrOf hsel

/-! ### The legal frames -/

/-- The nine operation codes (R100). -/
def opcodes : List (BitVec 8) := [0x01#8, 0x02#8, 0x10#8, 0x11#8, 0x12#8, 0x20#8, 0x21#8, 0x30#8, 0x31#8]

theorem opc_mem_opcodes (i : Instr) : i.opc ∈ opcodes := by
  cases i <;> simp [Instr.opc, opcodes]

/-- The operation codes are those that select a command. -/
theorem instrOf_of_mem_opcodes {o : BitVec 8} (h : o ∈ opcodes) (v : Bool) (a : Word32) :
    ∃ i, instrOf o v a = some i := by
  simp only [opcodes, List.mem_cons, List.not_mem_nil, or_false] at h
  obtain rfl | rfl | rfl | rfl | rfl | rfl | rfl | rfl | rfl := h <;> exact ⟨_, rfl⟩

/-- What makes a frame decode (R101). -/
theorem decodes_iff_fields (f : Frame) :
    (∃ i, decodeFrame f = .ok i) ↔ f.rsv = 0#23 ∧ f.opc ∈ opcodes ∧ (f.opc ≠ 0x21#8 → f.v = false) := by
  constructor
  · rintro ⟨i, h⟩
    obtain ⟨hrsv, hv, hsel⟩ := (decodeFrame_eq_ok_iff f i).mp h
    exact ⟨hrsv, opc_of_instrOf hsel ▸ opc_mem_opcodes i, fun ho => Bool.eq_false_iff.mpr fun h => ho (hv h)⟩
  · rintro ⟨hrsv, hopc, hv⟩
    obtain ⟨i, hsel⟩ := instrOf_of_mem_opcodes hopc f.v f.arg
    have hplace : f.v = true → f.opc = 0x21#8 := fun h => by_contra fun ho => Bool.eq_false_iff.mp (hv ho) h
    exact ⟨i, (decodeFrame_eq_ok_iff f i).mpr ⟨hrsv, hplace, hsel⟩⟩

/-- Every command's frame is legal (R100). -/
theorem legal_encodeInstr (i : Instr) : (encodeInstr i).legal = true := by
  cases i with
  | decode len => exact Laws.LegalFrame.decode len
  | encode => exact Laws.LegalFrame.encode
  | openCh => exact Laws.LegalFrame.openCh
  | negotiate => exact Laws.LegalFrame.negotiate
  | close => exact Laws.LegalFrame.close
  | read t => exact Laws.LegalFrame.read t
  | write v t => exact Laws.LegalFrame.write v t
  | tick t => exact Laws.LegalFrame.tick t
  | run t => exact Laws.LegalFrame.run t

/-- The three fields of each of the ten legal words (R100). -/
theorem fields_of_mem_legalWords {w : Word32} (h : w ∈ legalWords) :
    w.extractLsb' 9 23 = 0#23 ∧ w.extractLsb' 0 8 ∈ opcodes ∧
      (w.extractLsb' 0 8 ≠ 0x21#8 → w.getLsbD 8 = false) := by
  simp only [legalWords, List.mem_cons, List.not_mem_nil, or_false] at h
  obtain rfl | rfl | rfl | rfl | rfl | rfl | rfl | rfl | rfl | rfl := h <;> decide

/-- A frame decodes exactly if its `CMD` is one of the ten legal words: those are the words the encoder makes. -/
theorem decodes_iff_legal (f : Frame) : (∃ i, decodeFrame f = .ok i) ↔ f.legal = true := by
  constructor
  · rintro ⟨i, h⟩
    have hi := legal_encodeInstr i
    rwa [Frame.legal, encodeInstr_cmd_of_decodeFrame h] at hi
  · intro h
    exact (decodes_iff_fields f).mpr (fields_of_mem_legalWords (List.contains_iff_mem.mp h))

/-- Settles O3: the ten legal frames are encodings of commands, and each illegal one fails one check of the decoder. -/
theorem sampleFramesDecode : Obligations.SampleFramesDecode :=
  ⟨decodeFrame_encodeInstr (.decode 488#32), decodeFrame_encodeInstr .encode, decodeFrame_encodeInstr .openCh,
    decodeFrame_encodeInstr .negotiate, decodeFrame_encodeInstr .close, decodeFrame_encodeInstr (.read 500#32),
    decodeFrame_encodeInstr (.write false 500#32), decodeFrame_encodeInstr (.write true 500#32),
    decodeFrame_encodeInstr (.tick 500#32), decodeFrame_encodeInstr (.run 500#32), rfl, rfl, rfl⟩

end Sys2Proof

namespace Sys2Proof.Machine

/-! ### The response -/

/-- The state a response leaves, written out (R13, R27). -/
theorem respond_eq_ended (r : Reply) (s : State) : respond r s = s.ended r [] := by
  rw [State.ended, List.append_nil]
  rfl

/-- A command that does nothing but respond, with no reset, leaves the state the command began in, and its reply. -/
theorem endCommand_begin {s : State} (r : Reply) (hr : s.resetLine = []) : endCommand r s.begin = s.ended r [] := by
  rw [endCommand_quiet (by exact hr), respond_eq_ended]
  rfl

/-- An accepted frame that does not decode is answered `IllegalCommand` (R101). -/
theorem accept_of_not_decodes {s : State} (h : ¬ ∃ i, decodeFrame ⟨s.cmd, s.arg⟩ = .ok i) :
    accept s = .next (illegalCommand s) := by
  cases hd : decodeFrame ⟨s.cmd, s.arg⟩ with
  | ok i => exact absurd ⟨i, hd⟩ h
  | error e => simp only [accept, fetch, hd]

/-- Settles O1. -/
theorem legalFramesAreTheTenWords : Obligations.LegalFramesAreTheTenWords := by
  refine ⟨decodes_iff_fields, decodes_iff_legal, fun f i h => ?_, fun s hr hillegal => ?_⟩
  · obtain ⟨-, -, hsel⟩ := (decodeFrame_eq_ok_iff f i).mp h
    exact opc_of_instrOf hsel
  · have hnot := mt (decodes_iff_legal ⟨s.cmd, s.arg⟩).mp (Bool.eq_false_iff.mp hillegal)
    rw [accept_of_not_decodes hnot, illegalCommand, endCommand_begin _ hr]

/-! The fields of `RSP`, each at the bits R103 gives. -/

section
variable (st : Status) (ph : Phase) (vf : Verify) (sess : Session) (term : Bool)

@[simp] theorem rspWord_status : (rspWord st ph vf sess term).extractLsb' 0 8 = st.code :=
  BitVec.extractLsb'_append_eq_right

@[simp] theorem rspWord_phase : (rspWord st ph vf sess term).extractLsb' 8 2 = ph.code := by
  rw [rspWord, BitVec.extractLsb'_append_eq_of_le (by decide)]
  exact BitVec.extractLsb'_append_eq_right

@[simp] theorem rspWord_verify : (rspWord st ph vf sess term).extractLsb' 10 2 = vf.code := by
  rw [rspWord, BitVec.extractLsb'_append_eq_of_le (by decide), BitVec.extractLsb'_append_eq_of_le (by decide)]
  exact BitVec.extractLsb'_append_eq_right

@[simp] theorem rspWord_sess : (rspWord st ph vf sess term).extractLsb' 12 3 = sess.code := by
  rw [rspWord, BitVec.extractLsb'_append_eq_of_le (by decide), BitVec.extractLsb'_append_eq_of_le (by decide),
    BitVec.extractLsb'_append_eq_of_le (by decide)]
  exact BitVec.extractLsb'_append_eq_right

@[simp] theorem rspWord_term : (rspWord st ph vf sess term).getLsbD 15 = term := by
  rw [rspWord, BitVec.getLsbD_append, if_neg (by decide), BitVec.getLsbD_append, if_neg (by decide),
    BitVec.getLsbD_append, if_neg (by decide), BitVec.getLsbD_append, if_neg (by decide), BitVec.getLsbD_append,
    if_pos (by decide)]
  cases term <;> rfl

@[simp] theorem rspWord_unused : (rspWord st ph vf sess term).extractLsb' 16 16 = 0#16 := by
  rw [rspWord, BitVec.extractLsb'_append_eq_of_le (by decide), BitVec.extractLsb'_append_eq_of_le (by decide),
    BitVec.extractLsb'_append_eq_of_le (by decide), BitVec.extractLsb'_append_eq_of_le (by decide)]
  exact BitVec.extractLsb'_append_eq_left

end

/-- The `RSP` a host reads after a response is the one that was sent (R103). -/
theorem respond_rsp (r : Reply) (s : State) :
    (respond r s).visible.rsp = rspWord r.status r.phase r.verify s.sess r.term := rfl

/-- Settles O4. -/
theorem responseFrameMirrorsRegisters : Obligations.ResponseFrameMirrorsRegisters := by
  refine ⟨fun r s => ⟨endCommand_quiet, respond_eq_ended r s, rfl, ?_⟩, rfl, rfl, rfl, rfl⟩
  rw [respond_rsp]
  exact ⟨rspWord_status .., rspWord_phase .., rspWord_verify .., rspWord_sess .., rspWord_term .., rspWord_unused ..⟩

/-! ### The places of the named fields -/

section
variable {c : Config} {v j : Nat}

/-- The setpoints of view `v` follow those of the views before it (R91). -/
theorem setpoint_index (hv : 1 ≤ v) (hV : v ≤ c.nView) (hj : j < c.seqLen) :
    InField.index c (.setpoint v j) = some (nScalar + c.seqLen * (v - 1) + j) :=
  if_pos ⟨hv, hV, hj⟩

/-- The tail follows the named words (R91). -/
theorem tail_index (hj : j < c.inTailWords) : InField.index c (.tail j) = some (c.inNamedWords + j) :=
  if_pos hj

/-- The values of view `v`: before the qualities of the same view (R93), or before all qualities (R94). -/
theorem value_index (hv : 1 ≤ v) (hV : v ≤ c.nView) (hj : j < c.seqLen) :
    OutField.index c (.value v j) =
      some (if c.outSeqOrder = .paired then nScalar + 2 * c.seqLen * (v - 1) + j
        else nScalar + c.seqLen * (v - 1) + j) := by
  rw [OutField.index, if_pos ⟨hv, hV, hj⟩]
  cases c.outSeqOrder <;> rfl

/-- The qualities of view `v`: after the values of the same view (R93), or after all values (R94). -/
theorem valueQuality_index (hv : 1 ≤ v) (hV : v ≤ c.nView) (hj : j < c.seqLen) :
    OutField.index c (.valueQuality v j) =
      some (if c.outSeqOrder = .paired then nScalar + c.seqLen + 2 * c.seqLen * (v - 1) + j
        else nScalar + c.nView * c.seqLen + c.seqLen * (v - 1) + j) := by
  rw [OutField.index, if_pos ⟨hv, hV, hj⟩]
  cases c.outSeqOrder <;> rfl

end

/-- Settles O22: the general places at the reference sizes. -/
theorem namedFieldsLieAtTheirWords : Obligations.NamedFieldsLieAtTheirWords := by
  refine ⟨fun c f => ⟨rfl, rfl⟩, fun s f => rfl, fun s f => rfl, fun c hview hseq =>
    ⟨fun v j hv hv4 hj => ?_, fun j hj => ?_, rfl⟩⟩
  · have hV : v ≤ c.nView := hview ▸ hv4
    have hJ : j < c.seqLen := hseq ▸ hj
    rw [setpoint_index hv hV hJ, value_index hv hV hJ, valueQuality_index hv hV hJ, hview, hseq]
    exact ⟨rfl, rfl, rfl⟩
  · have hnamed : c.inNamedWords = 48 := by rw [Config.inNamedWords, hview, hseq]
    have htail : c.inTailWords = 74 := by simp [Config.inTailWords, hnamed]
    rw [tail_index (htail ▸ hj), hnamed]

/-! ### An ENCODE whose record does not fit -/

/-- ENCODE of a record that does not fit (R125, R126). -/
theorem encodeBody_overflow {s : State} (h : recBytes < s.cfg.outNamedBytes) :
    encodeBody s = ({ status := .bufferOverflow }, consumeTx s) := by
  simp only [encodeBody, encodeRecord_overflow h]

/-- A WRITE with no encoded record is refused, in every `STATE` (R164, R165 (b)). -/
theorem writeBody_of_not_txValid {s : State} (h : s.txValid = false) (v : Bool) (t : Word32)
    (k : Reply → State → State) : writeBody v t s k = k Reply.refused s := by
  simp [writeBody, h]

theorem exec_encode (s : State) :
    exec .encode s = .next (endCommand (encodeBody s.begin).1 (encodeBody s.begin).2) := rfl

theorem exec_write (v : Bool) (t : Word32) (s : State) :
    exec (.write v t) s = .next (writeBody v t s.begin endCommand) := rfl

/-- Settles O19: the failed ENCODE clears `TX_VALID`, which is what the WRITE after it is refused by. -/
theorem encodeOverflowBlocksTheWrite : Obligations.EncodeOverflowBlocksTheWrite := by
  intro s hr hbig
  constructor
  · rw [exec_encode, encodeBody_overflow (s := s.begin) hbig]
    exact congrArg _ (endCommand_begin (s := { s with txValid := false }) _ hr)
  · intro v t
    rw [exec_write, writeBody_of_not_txValid rfl]
    exact congrArg _ (endCommand_begin _ hr)

end Sys2Proof.Machine

/-! SUPPORT. The family of `40_codec.md`: the words of a slot and the bytes of an encoded record (R121, R125, R128), and
what the two codec commands leave (R122 to R126). -/

namespace Sys2Proof.Machine

/-! ### The words of a slot -/

/-- A word is determined by its two bytes and determines them (R11). -/
theorem wordOf_inj {bo : ByteOrder} {a0 a1 b0 b1 : Byte} :
    wordOf bo a0 a1 = wordOf bo b0 b1 ↔ a0 = b0 ∧ a1 = b1 := by
  constructor
  · intro h
    constructor
    · simpa using congrArg (fun v => byteOf bo v false) h
    · simpa using congrArg (fun v => byteOf bo v true) h
  · rintro ⟨rfl, rfl⟩
    rfl

/-- Two buffers hold the same first `n` words exactly if they hold the same first `2 * n` bytes. -/
theorem words_agree_iff (bo : ByteOrder) (b1 b2 : Memory) (n : Nat) :
    (∀ k, k < n → Region.word bo b1 k = Region.word bo b2 k) ↔ ∀ i, i < 2 * n → b1.read i = b2.read i := by
  constructor
  · intro hwords i hi
    obtain ⟨heven, hodd⟩ := wordOf_inj.mp (hwords (i / 2) (by omega))
    obtain hpar | hpar := Nat.mod_two_eq_zero_or_one i
    · rwa [show 2 * (i / 2) = i by omega] at heven
    · rwa [show 2 * (i / 2) + 1 = i by omega] at hodd
  · intro hbytes k hk
    exact wordOf_inj.mpr ⟨hbytes _ (by omega), hbytes _ (by omega)⟩

/-- Settles O17: equal records are equal words, and equal words are equal bytes. -/
theorem decodeIsInjectiveOnTheSlot : Obligations.DecodeIsInjectiveOnTheSlot := by
  intro bo b1 b2 l1 l2 h1 h2
  rw [decodeRecord_long h1, decodeRecord_long h2, Option.some_inj, List.map_inj_left]
  simp only [List.mem_range]
  exact words_agree_iff bo b1 b2 recWords

/-! ### The bytes of an encoded record -/

/-- A region filled with the first `n` values of `f` reads as `f` there. -/
theorem Region.read_filled_map_range {w : Nat} (f : Nat → BitVec w) (d : Nat) {n i : Nat} (h : i < n) :
    (Region.filled ((List.range n).map f) d).read i = f i := by
  simp [Region.read_filled, h]

section
variable {c : Config} {rec : RegFile}

/-- The two bytes of a named word (R125). -/
theorem encodedByte_named {k : Nat} (odd : Bool) (hk : k < c.outNamedWords) :
    encodedByte c rec (2 * k + odd.toNat) = byteOf c.byteOrder (rec.read k) odd := by
  have hodd := odd.toNat_le
  have hbytes : c.outNamedBytes = 2 * c.outNamedWords := rfl
  have hin : 2 * k + odd.toNat < c.outNamedBytes := by omega
  rw [encodedByte, if_pos hin]
  cases odd with
  | false => simp
  | true => simp [Nat.mul_add_div]

/-- A byte past the named words (R125). -/
theorem encodedByte_pad {i : Nat} (hi : c.outNamedBytes ≤ i) : encodedByte c rec i = c.padByte :=
  if_neg (Nat.not_lt.mpr hi)

/-- A buffer that holds the encoded record `rec`; its further bytes are the free values number `d`. -/
def encodedBuffer (c : Config) (rec : RegFile) (d : Nat) : Memory :=
  Region.filled ((List.range recBytes).map (encodedByte c rec)) d

theorem encodedBuffer_of_encodeRecord {bs : List Byte} (d : Nat) (h : encodeRecord c rec = some bs)
    (hfits : c.outNamedBytes ≤ recBytes) : encodedBuffer c rec d = Region.filled bs d := by
  rw [encodeRecord_fits hfits, Option.some_inj] at h
  rw [encodedBuffer, h]

theorem encodedBuffer_read (d : Nat) {i : Nat} (hi : i < recBytes) :
    (encodedBuffer c rec d).read i = encodedByte c rec i :=
  Region.read_filled_map_range _ d hi

/-- The two bytes of a named word in the buffer (R125). -/
theorem encodedBuffer_read_named (d : Nat) (hfits : c.outNamedBytes ≤ recBytes) {k : Nat} (odd : Bool)
    (hk : k < c.outNamedWords) :
    (encodedBuffer c rec d).read (2 * k + odd.toNat) = byteOf c.byteOrder (rec.read k) odd := by
  have hodd := odd.toNat_le
  have hbytes : c.outNamedBytes = 2 * c.outNamedWords := rfl
  rw [encodedBuffer_read d (by omega), encodedByte_named odd hk]

/-- A named word of the encoded record reads back (R128). -/
theorem word_encodedBuffer_named (d : Nat) (hfits : c.outNamedBytes ≤ recBytes) {k : Nat}
    (hk : k < c.outNamedWords) : Region.word c.byteOrder (encodedBuffer c rec d) k = rec.read k := by
  have heven : (encodedBuffer c rec d).read (2 * k) = byteOf c.byteOrder (rec.read k) false :=
    encodedBuffer_read_named d hfits false hk
  have hodd : (encodedBuffer c rec d).read (2 * k + 1) = byteOf c.byteOrder (rec.read k) true :=
    encodedBuffer_read_named d hfits true hk
  rw [Region.word, heven, hodd, wordOf_byteOf]

/-- A word past the named words reads as two pad bytes (R125). -/
theorem word_encodedBuffer_pad (d : Nat) {k : Nat} (hk : c.outNamedWords ≤ k) (hslot : k < recWords) :
    Region.word c.byteOrder (encodedBuffer c rec d) k = wordOf c.byteOrder c.padByte c.padByte := by
  have hpast : c.outNamedBytes ≤ 2 * k := Nat.mul_le_mul_left 2 hk
  have hbytes : 2 * k + 1 < recBytes := by
    rw [recWords] at hslot
    rw [recBytes]
    omega
  rw [Region.word, encodedBuffer_read d (by omega), encodedBuffer_read d hbytes, encodedByte_pad hpast,
    encodedByte_pad (by omega)]

end

/-- Settles O21: the bytes determine the named words, since these read back from them. -/
theorem encodeIsInjective : Obligations.EncodeIsInjective := by
  intro c r1 r2 hfits heq k hk
  have hbuf : encodedBuffer c r1 0 = encodedBuffer c r2 0 :=
    encodedBuffer_of_encodeRecord 0 (heq.trans (encodeRecord_fits hfits)) hfits
  rw [← word_encodedBuffer_named 0 hfits hk, hbuf, word_encodedBuffer_named 0 hfits hk]

/-- Two zero bytes make the zero word in both byte orders (R11). -/
theorem wordOf_zero (bo : ByteOrder) : wordOf bo 0x00#8 0x00#8 = 0#16 := by
  cases bo <;> rfl

/-- Word `k` of a decoded slot (R121). -/
theorem slotWords_getElem? (bo : ByteOrder) (m : Memory) {k : Nat} (hk : k < recWords) :
    ((List.range recWords).map (Region.word bo m))[k]? = some (Region.word bo m k) := by
  rw [List.getElem?_map, List.getElem?_range hk, Option.map_some]

/-- Settles O20: with the reference sizes the named words are the words 0 to 79. -/
theorem encodeThenDecodeRoundTrip : Obligations.EncodeThenDecodeRoundTrip := by
  intro c rec d hview hseq hpad
  have hnamed : c.outNamedWords = 80 := by rw [Config.outNamedWords, hview, hseq]
  have hfits : c.outNamedBytes ≤ recBytes := by
    rw [Config.outNamedBytes, hnamed]
    decide
  refine ⟨_, _, encodeRecord_fits hfits, by simp, decodeRecord_long (Nat.le_refl _), by simp,
    fun k hk => ?named, fun k hk hslot => ?pad⟩
  case named =>
    have hword := word_encodedBuffer_named (rec := rec) d hfits (hk.trans_eq hnamed.symm)
    exact (slotWords_getElem? _ _ (hk.trans (by decide))).trans (congrArg some hword)
  case pad =>
    have hword := word_encodedBuffer_pad (rec := rec) d (hnamed.le.trans hk) hslot
    rw [hpad, wordOf_zero] at hword
    exact (slotWords_getElem? _ _ hslot).trans (congrArg some hword)

/-! ### The two codec commands -/

/-- DECODE of a length that covers the slot (R122). -/
theorem decodeBody_slot {len : Nat} (s : State) (hlo : recBytes ≤ len) (hhi : len ≤ inAreaBytes) :
    decodeBody len s = ({}, storeIn ((List.range recWords).map (Region.word s.cfg.byteOrder s.rxArea)) s) := by
  simp only [decodeBody, if_neg (Nat.not_lt.mpr hhi), decodeRecord_long hlo]

/-- DECODE of a length that does not cover the slot (R122). -/
theorem decodeBody_short {len : Nat} (s : State) (h : len < recBytes) :
    decodeBody len s = ({ status := .sizeMismatch }, voidIn s) := by
  have hhi : len ≤ inAreaBytes := h.le.trans (by decide)
  simp only [decodeBody, if_neg (Nat.not_lt.mpr hhi), decodeRecord_short h]

/-- ENCODE of a record that fits (R125, R126). -/
theorem encodeBody_fits {s : State} (h : s.cfg.outNamedBytes ≤ recBytes) :
    encodeBody s = ({}, storeTx ((List.range recBytes).map (encodedByte s.cfg s.outRec)) s) := by
  simp only [encodeBody, encodeRecord_fits h]

theorem exec_decode (len : Word32) (s : State) :
    exec (.decode len) s =
      .next (endCommand (decodeBody len.toNat s.begin).1 (decodeBody len.toNat s.begin).2) := rfl

/-- The whole state a DECODE that succeeds leaves (R122). -/
theorem exec_decode_slot {s : State} {len : Word32} (hr : s.resetLine = []) (hlo : recBytes ≤ len.toNat)
    (hhi : len.toNat ≤ inAreaBytes) :
    exec (.decode len) s = .next
      ((storeIn ((List.range recWords).map (Region.word s.cfg.byteOrder s.rxArea)) s).ended {} []) := by
  rw [exec_decode, decodeBody_slot s.begin hlo hhi]
  exact congrArg _ (endCommand_begin (s := storeIn _ s) _ hr)

/-- The whole state a DECODE of a short buffer leaves (R122). -/
theorem exec_decode_short {s : State} {len : Word32} (hr : s.resetLine = []) (h : len.toNat < recBytes) :
    exec (.decode len) s = .next ((voidIn s).ended { status := .sizeMismatch } []) := by
  rw [exec_decode, decodeBody_short s.begin h]
  exact congrArg _ (endCommand_begin (s := voidIn s) _ hr)

/-- The whole state an ENCODE that succeeds leaves (R126). -/
theorem exec_encode_fits {s : State} (hr : s.resetLine = []) (h : s.cfg.outNamedBytes ≤ recBytes) :
    exec .encode s = .next
      ((storeTx ((List.range recBytes).map (encodedByte s.cfg s.outRec)) s).ended {} []) := by
  rw [exec_encode, encodeBody_fits (s := s.begin) h]
  exact congrArg _ (endCommand_begin (s := storeTx _ s) _ hr)

theorem ended_repliedWith (s : State) (r : Reply) (obs : List Obs) : (s.ended r obs).repliedWith r :=
  ⟨rfl, rfl, rfl, rfl, rfl, rfl, rfl, rfl⟩

/-- A command that observed nothing adds its response frame to the history (R103). -/
theorem ended_history (s : State) (r : Reply) :
    (s.ended r []).history =
      s.history ++ [.response (rspWord r.status r.phase r.verify s.sess r.term) r.code] := by
  rw [State.ended, List.append_nil]

/-- A DECODE that replies `r` has left all but `IN_REC`, `IN_VALID` and the response registers, and has issued nothing
(R122, R123). -/
def State.keptByDecode (s t : State) (r : Reply) : Prop :=
  (∀ i, t.rxArea.read i = s.rxArea.read i) ∧ t.sess = s.sess ∧ s.sameHandles t ∧ s.sameOutput t ∧
    s.sameOperands t ∧ s.samePorts t ∧ t.collab = s.collab ∧
    t.history = s.history ++ [.response (rspWord r.status r.phase r.verify s.sess r.term) r.code]

/-- Replacing the decoded record and responding keeps the rest. -/
theorem keptByDecode_of_record (s : State) (f : RegFile) (valid : Bool) (r : Reply) :
    s.keptByDecode ({ s with inRec := f, inValid := valid }.drawn.ended r []) r :=
  ⟨fun _ => rfl, rfl, ⟨rfl, rfl, rfl, rfl⟩, ⟨fun _ => rfl, fun _ => rfl, rfl, fun _ => rfl⟩, ⟨rfl, rfl, rfl, rfl⟩,
    ⟨rfl, rfl, rfl⟩, rfl, ended_history _ r⟩

/-- Settles O15: `IN_REC` is filled with the words of the slot. -/
theorem decodeReproducesEveryWord : Obligations.DecodeReproducesEveryWord := by
  intro s len hr hlo hhi
  exact ⟨_, exec_decode_slot hr hlo hhi, ended_repliedWith .., rfl,
    fun _ hk => Region.read_filled_map_range _ _ hk, keptByDecode_of_record s _ true {}⟩

/-- Settles O16: `IN_REC` becomes unspecified. -/
theorem decodeOfShortBufferFails : Obligations.DecodeOfShortBufferFails := by
  intro s len hr hshort
  exact ⟨_, exec_decode_short hr hshort, ended_repliedWith .., rfl, fun _ => rfl,
    keptByDecode_of_record s _ false { status := .sizeMismatch }⟩

/-- Settles O18: `TX_BUF` is filled with the encoded record, whose bytes are those of the named words, then pad
bytes. -/
theorem encodeWritesWordsAndPadding : Obligations.EncodeWritesWordsAndPadding := by
  intro s hr hfits
  refine ⟨_, exec_encode_fits hr hfits, ended_repliedWith .., rfl, fun k hk => ⟨?even, ?odd⟩, fun i hpast hi => ?pad,
    fun _ => rfl, fun _ => rfl, rfl, ⟨rfl, rfl, rfl, rfl⟩, ⟨fun _ => rfl, rfl, fun _ => rfl⟩, ⟨rfl, rfl, rfl, rfl⟩,
    ⟨rfl, rfl, rfl⟩, rfl, ended_history ..⟩
  case even => exact encodedBuffer_read_named s.draws hfits false hk
  case odd => exact encodedBuffer_read_named s.draws hfits true hk
  case pad => exact (encodedBuffer_read s.draws hi).trans (encodedByte_pad hpast)

end Sys2Proof.Machine

/-! SUPPORT. The family of `41_session_lifecycle.md`: the handles that are lost (R149 (e)), the moves of `STATE` (R140,
R146), and the three lifecycle commands (R141 to R149). -/

namespace Sys2Proof.Machine

/-! ### What is acquired, closed and held -/

/-- The two handles of a session (R21). -/
inductive HandleKind where
  | ch
  | drv

/-- A number of channel handles and a number of driver handles for each handle value. -/
abbrev HandleCount := Handle → Int × Int

namespace HandleKind

/-- One handle of value `g`. -/
def one : HandleKind → Handle → HandleCount
  | .ch, g => fun h => (if g = h then 1 else 0, 0)
  | .drv, g => fun h => (0, if g = h then 1 else 0)

/-- `CH_VALID` or `DRV_VALID`. -/
def valid : HandleKind → State → Bool
  | .ch => State.chValid
  | .drv => State.drvValid

/-- `CH_H` or `DRV_H`. -/
def handle : HandleKind → State → Handle
  | .ch => State.chH
  | .drv => State.drvH

/-- The primitive that closes a handle. -/
def close : HandleKind → Handle → Primitive
  | .ch => .chClose
  | .drv => .drvClose

/-- What the block does once its close is answered (R143). -/
def drop : HandleKind → State → State
  | .ch => dropCh
  | .drv => dropDrv

/-- What the block does with a handle it is granted (R141). -/
def hold : HandleKind → Handle → State → State
  | .ch => holdCh
  | .drv => holdDrv

section
variable (κ : HandleKind) (s : State) (c : List PortEvent) (l : List ResetInput) (d : Nat)

@[simp] theorem valid_portsAt : κ.valid (s.portsAt c l d) = κ.valid s := by cases κ <;> rfl
@[simp] theorem valid_observe (o : Obs) : κ.valid (s.observe o) = κ.valid s := by cases κ <;> rfl
@[simp] theorem handle_portsAt : κ.handle (s.portsAt c l d) = κ.handle s := by cases κ <;> rfl
@[simp] theorem drop_activity : (κ.drop s).activity = s.activity := by cases κ <;> rfl
@[simp] theorem hold_activity (h : Handle) : (κ.hold h s).activity = s.activity := by cases κ <;> rfl

/-- A reset leaves no trace of a drop. -/
@[simp] theorem hardReset_drop : hardReset (κ.drop s) = hardReset s := by cases κ <;> rfl

end

end HandleKind

/-- What a history entry adds to the handles acquired and not closed. -/
def Obs.balance (c : Config) (o : Obs) : HandleCount := fun h =>
  ((if o.acquiresCh c h then 1 else 0) - (if o.closesCh h then 1 else 0),
   (if o.acquiresDrv c h then 1 else 0) - (if o.closesDrv h then 1 else 0))

/-- The handles acquired, less those closed. -/
def State.unclosed (s : State) : HandleCount := fun h =>
  ((s.chAcquired h : Int) - s.chClosed h, (s.drvAcquired h : Int) - s.drvClosed h)

/-- The handles held whose close has not been issued. -/
def State.held (s : State) : HandleCount := fun h => (s.chHeld h, s.drvHeld h)

/-- The handles acquired that are neither closed nor held. -/
def State.lost (s : State) : HandleCount := s.unclosed - s.held

section
variable (κ : HandleKind) (s : State)

@[simp] theorem unclosed_drop : (κ.drop s).unclosed = s.unclosed := by cases κ <;> rfl
@[simp] theorem unclosed_hold (h : Handle) : (κ.hold h s).unclosed = s.unclosed := by cases κ <;> rfl
@[simp] theorem unclosed_hang (p : Primitive) : (hang p s).unclosed = s.unclosed := rfl
@[simp] theorem held_observe (o : Obs) : (s.observe o).held = s.held := rfl
@[simp] theorem held_drop_observe (o : Obs) : (κ.drop (s.observe o)).held = (κ.drop s).held := by cases κ <;> rfl
@[simp] theorem held_hang_observe (p : Primitive) (o : Obs) : (hang p (s.observe o)).held = (hang p s).held := rfl
@[simp] theorem lost_portsAt (c : List PortEvent) (l : List ResetInput) (d : Nat) :
    (s.portsAt c l d).lost = s.lost := rfl

end

theorem closedAtMostOnce_iff (s : State) : s.closedAtMostOnce ↔ 0 ≤ s.lost := by
  refine forall_congr' fun h => ?_
  simp only [State.lost, State.unclosed, State.held, Pi.zero_apply, Pi.sub_apply, Prod.le_def, Prod.fst_zero,
    Prod.snd_zero, Prod.fst_sub, Prod.snd_sub]
  omega

theorem nothingLeaked_iff (s : State) : s.nothingLeaked ↔ s.lost = 0 := by
  refine Iff.trans (forall_congr' fun h => ?_) funext_iff.symm
  simp only [State.lost, State.unclosed, State.held, Pi.zero_apply, Pi.sub_apply, Prod.ext_iff, Prod.fst_zero,
    Prod.snd_zero, Prod.fst_sub, Prod.snd_sub]
  omega

/-! What an entry of the history adds: one handle where one is granted, one less where a close is issued. -/

theorem unclosed_observe (s : State) (o : Obs) : (s.observe o).unclosed = s.unclosed + o.balance s.cfg := by
  funext h
  simp only [State.unclosed, State.chAcquired, State.chClosed, State.drvAcquired, State.drvClosed, Obs.balance,
    observe_history, observe_cfg, List.countP_append, List.countP_singleton, Pi.add_apply, Prod.mk_add_mk,
    Prod.mk.injEq]
  constructor <;> push_cast <;> ring

/-- An entry that moves data acquires no handle and closes none. -/
theorem balance_of_ofExchange {o : Obs} (c : Config) (h : o.ofExchange = true) : o.balance c = 0 := by
  cases o with
  | call p a v =>
    cases p with
    | chRead | chWrite | chReadBack => rfl
    | _ => cases h
  | _ => rfl

theorem balance_close (κ : HandleKind) (c : Config) (a : Option Answer) (v : Visible) (g : Handle) :
    (Obs.call (κ.close g) a v).balance c = -κ.one g := by
  funext h
  cases κ <;> simp [Obs.balance, HandleKind.one, HandleKind.close, Obs.acquiresCh, Obs.closesCh, Obs.acquiresDrv,
    Obs.closesDrv]

section
variable (c : Config) (a : Answer) (v : Visible)

theorem balance_drvOpen :
    (Obs.call .drvOpen (some a) v).balance c = if a.noHandle c then 0 else HandleKind.drv.one (a.handle c) := by
  funext h
  cases hno : a.noHandle c <;>
    simp [Obs.balance, HandleKind.one, Obs.acquiresCh, Obs.closesCh, Obs.acquiresDrv, Obs.closesDrv, hno]

theorem balance_chOpen (d : Handle) (name : List Byte) (idx : Nat) :
    (Obs.call (.chOpen d name idx) (some a) v).balance c =
      if a.noHandle c then 0 else HandleKind.ch.one (a.handle c) := by
  funext h
  cases hno : a.noHandle c <;>
    simp [Obs.balance, HandleKind.one, Obs.acquiresCh, Obs.closesCh, Obs.acquiresDrv, Obs.closesDrv, hno]

end

/-! What is held: nothing after a reset, and the handle whose close hangs no more than one that was dropped. -/

/-- No command waits for ever (R249). -/
def State.goesOn (s : State) : Prop := ∀ p, s.activity ≠ .hung p

section
variable {s : State} (hg : s.goesOn) (κ : HandleKind)
include hg

theorem goesOn_drop : (κ.drop s).goesOn := by
  simpa only [State.goesOn, HandleKind.drop_activity] using hg

theorem goesOn_hold (h : Handle) : (κ.hold h s).goesOn := by
  simpa only [State.goesOn, HandleKind.hold_activity] using hg

end

theorem held_nonneg (s : State) : 0 ≤ s.held := fun h => by simp [State.held, Prod.le_def]

theorem held_hardReset (s : State) : (hardReset s).held = 0 := rfl

section
variable {s : State} (hg : s.goesOn)
include hg

theorem held_of_goesOn :
    s.held = (bif s.chValid then HandleKind.ch.one s.chH else 0) +
      bif s.drvValid then HandleKind.drv.one s.drvH else 0 := by
  funext h
  cases hc : s.chValid <;> cases hd : s.drvValid <;>
    simp [State.held, State.chHeld, State.drvHeld, HandleKind.one, hc, hd, hg (.chClose h), hg (.drvClose h)]

/-- A primitive that is no close leaves what is held when it is never answered. -/
theorem held_hang {p : Primitive} (hp : ∀ κ h, p ≠ HandleKind.close κ h) : (hang p s).held = s.held := by
  funext h
  simp [State.held, State.chHeld, State.drvHeld, show p ≠ .chClose h from hp .ch h,
    show p ≠ .drvClose h from hp .drv h, hg (.chClose h), hg (.drvClose h)]

/-- A handle whose close is issued and never answered is held no more than one that was dropped. -/
theorem held_hang_close (κ : HandleKind) : (hang (κ.close (κ.handle s)) s).held = (κ.drop s).held := by
  funext h
  have hc := hg (.chClose h)
  have hd := hg (.drvClose h)
  cases κ <;>
    simp +contextual [State.held, State.chHeld, State.drvHeld, HandleKind.close, HandleKind.handle, HandleKind.drop,
      hc, hd]

theorem held_drop {κ : HandleKind} (hv : κ.valid s = true) :
    s.held = (κ.drop s).held + κ.one (κ.handle s) := by
  rw [held_of_goesOn hg, held_of_goesOn (goesOn_drop hg κ)]
  cases κ with
  | ch =>
    rw [show s.chValid = true from hv]
    simp [HandleKind.drop, HandleKind.handle, add_comm]
  | drv =>
    rw [show s.drvValid = true from hv]
    simp [HandleKind.drop, HandleKind.handle]

theorem held_hold {κ : HandleKind} (hv : κ.valid s = false) (h : Handle) :
    (κ.hold h s).held = s.held + κ.one h := by
  rw [held_of_goesOn hg, held_of_goesOn (goesOn_hold hg κ h)]
  cases κ with
  | ch =>
    rw [show s.chValid = false from hv]
    simp [HandleKind.hold, add_comm]
  | drv =>
    rw [show s.drvValid = false from hv]
    simp [HandleKind.hold]

end

/-! ### What is lost

A command leaves it as it finds it, and a reset can only raise it (R241). -/

theorem lost_observe {s : State} {o : Obs} (ho : o.balance s.cfg = 0) : (s.observe o).lost = s.lost := by
  rw [State.lost, unclosed_observe, ho, add_zero, held_observe, State.lost]

/-- A reset holds no handle any more, and closes none (R241). -/
theorem lost_le_hardReset (s : State) : s.lost ≤ (hardReset s).lost := by
  have hun : (hardReset s).unclosed = s.unclosed := (unclosed_observe s .reset).trans (add_zero _)
  rw [State.lost, State.lost, held_hardReset, hun, sub_zero]
  exact sub_le_self _ (held_nonneg s)

section
variable {s : State} (hg : s.goesOn)
include hg

/-- To be granted a handle and to hold it loses nothing. -/
theorem lost_hold {κ : HandleKind} (hv : κ.valid s = false) {h : Handle} {o : Obs} (ho : o.balance s.cfg = κ.one h) :
    (κ.hold h (s.observe o)).lost = s.lost := by
  have hheld : (κ.hold h (s.observe o)).held = s.held + κ.one h :=
    held_hold (s := s.observe o) hg ((κ.valid_observe ..).trans hv) h
  rw [State.lost, unclosed_hold, unclosed_observe, ho, hheld, add_sub_add_right_eq_sub, State.lost]

/-- To close a held handle and to drop it loses nothing. -/
theorem lost_drop {κ : HandleKind} (hv : κ.valid s = true) (a : Option Answer) (v : Visible) :
    (κ.drop (s.observe (.call (κ.close (κ.handle s)) a v))).lost = s.lost := by
  rw [State.lost, unclosed_drop, unclosed_observe, balance_close, held_drop_observe, State.lost, held_drop hg hv]
  abel

/-- A close that is never answered loses nothing either. -/
theorem lost_hang_close {κ : HandleKind} (hv : κ.valid s = true) (v : Visible) :
    (hang (κ.close (κ.handle s)) (s.observe (.call (κ.close (κ.handle s)) none v))).lost = s.lost := by
  rw [← lost_drop hg hv none v, State.lost, State.lost, held_hang_observe, held_hang_close hg, held_drop_observe,
    unclosed_hang, unclosed_drop]

/-- Nor does any other primitive that is never answered. -/
theorem lost_hang {p : Primitive} (hp : ∀ κ h, p ≠ HandleKind.close κ h) : (hang p s).lost = s.lost := by
  rw [State.lost, unclosed_hang, held_hang hg hp, State.lost]

/-- Two blocks that go on hold the same if their handle registers say the same. -/
theorem held_eq {t : State} (hg' : t.goesOn) (h : s.sameHandles t) : t.held = s.held := by
  obtain ⟨hdrvH, hchH, hdrv, hch⟩ := h
  rw [held_of_goesOn hg, held_of_goesOn hg', hdrvH, hchH, hdrv, hch]

theorem lost_respond (r : Reply) : (respond r s).lost = s.lost := by
  have hg' : (respond r s).goesOn := fun _ h => nomatch h
  have hun : (respond r s).unclosed = s.unclosed :=
    (unclosed_observe s (.response (rspWord r.status r.phase r.verify s.sess r.term) r.code)).trans (add_zero _)
  have hheld : (respond r s).held = s.held := held_eq hg hg' ⟨rfl, rfl, rfl, rfl⟩
  rw [State.lost, hun, hheld, State.lost]

end

/-! ### What a command loses -/

/-- The command runs and `L` is lost. -/
structure Running (L : HandleCount) (s : State) : Prop where
  goesOn : s.goesOn
  lost : s.lost = L

/-- `L` is lost, or a reset came and lost more. -/
def LostKept (L : HandleCount) (t : State) : Prop := t.lost = L ∨ L ≤ t.lost ∧ t.neverReset = false

theorem lostKept_hardReset {L : HandleCount} {s : State} (h : L ≤ s.lost) : LostKept L (hardReset s) :=
  .inr ⟨h.trans (lost_le_hardReset s), by simp [State.neverReset]⟩

section
variable {L : HandleCount} {s : State} (hs : Running L s)
include hs

theorem Running.observe {o : Obs} (ho : o.balance s.cfg = 0) : Running L (s.observe o) :=
  ⟨hs.goesOn, (lost_observe ho).trans hs.lost⟩

theorem Running.portsAt (c : List PortEvent) (l : List ResetInput) (d : Nat) : Running L (s.portsAt c l d) :=
  ⟨hs.goesOn, hs.lost⟩

theorem Running.moveTo (x : Session) : Running L (moveTo x s) := ⟨hs.goesOn, hs.lost⟩

theorem Running.loopOn (t : Word32) : Running L (loopOn t s) := by
  have hg : (Machine.loopOn t s).goesOn := fun _ h => nomatch h
  have hheld : (Machine.loopOn t s).held = s.held := held_eq hs.goesOn hg ⟨rfl, rfl, rfl, rfl⟩
  have hun : (Machine.loopOn t s).unclosed = s.unclosed := rfl
  exact ⟨hg, by rw [State.lost, hheld, hun, ← hs.lost, State.lost]⟩

theorem Running.drop {κ : HandleKind} (hv : κ.valid s = true) (a : Option Answer) (v : Visible) :
    Running L (κ.drop (s.observe (.call (κ.close (κ.handle s)) a v))) :=
  ⟨goesOn_drop (s := s.observe _) hs.goesOn κ, (lost_drop hs.goesOn hv a v).trans hs.lost⟩

theorem Running.hold {κ : HandleKind} (hv : κ.valid s = false) {h : Handle} {o : Obs}
    (ho : o.balance s.cfg = κ.one h) : Running L (κ.hold h (s.observe o)) :=
  ⟨goesOn_hold (s := s.observe _) hs.goesOn κ h, (lost_hold hs.goesOn hv ho).trans hs.lost⟩

theorem endCommand_lostKept (r : Reply) : LostKept L (endCommand r s) :=
  orReset_elim
    (fun _ => .inl ((lost_respond hs.goesOn r).trans hs.lost))
    (fun _ => lostKept_hardReset hs.lost.ge)

/-- A call that is no close and acquires nothing without an answer: only what comes after its answer has to be looked
at. -/
theorem callThen_lostKept {p : Primitive} {k : Answer → State → State}
    (hclose : ∀ κ h, p ≠ HandleKind.close κ h) (hnone : ∀ v, (Obs.call p none v).balance s.cfg = 0)
    (answered : ∀ a c l d, LostKept L (k a ((s.portsAt c l d).observe (.call p (some a) s.visible)))) :
    LostKept L (callThen p s k) :=
  have hcall (c l d) : Running L ((s.portsAt c l d).observe (.call p none s.visible)) :=
    (hs.portsAt c l d).observe (hnone _)
  callThen_elim
    (before := fun _ => lostKept_hardReset hs.lost.ge)
    (during := fun c l d => lostKept_hardReset (hcall c l d).lost.ge)
    (silent := fun c l => .inl ((lost_hang (hcall c l _).goesOn hclose).trans (hcall c l _).lost))
    (answered := answered)

/-- A call that is no close and acquires nothing, whatever its answer. -/
theorem requestThen_lostKept {p : Primitive} {k : Answer → State → State}
    (hclose : ∀ κ h, p ≠ HandleKind.close κ h) (hbal : ∀ a v, (Obs.call p a v).balance s.cfg = 0)
    (hk : ∀ a u, Running L u → LostKept L (k a u)) :
    LostKept L (callThen p s k) :=
  callThen_lostKept hs hclose (hbal none) fun a c l d => hk a _ ((hs.portsAt c l d).observe (hbal _ _))

/-- The close of a held handle, however it ends. -/
theorem closeThen_lostKept (κ : HandleKind) {k : State → State} (hv : κ.valid s = true)
    (hk : ∀ u, Running L u → LostKept L (k u)) :
    LostKept L (callThen (κ.close (κ.handle s)) s fun _ u => k (κ.drop u)) := by
  have hdrop (c l d a) := (hs.portsAt c l d).drop ((κ.valid_portsAt ..).trans hv) a s.visible
  have hhang (c l d) := lost_hang_close (hs.portsAt c l d).goesOn ((κ.valid_portsAt ..).trans hv) s.visible
  simp only [HandleKind.handle_portsAt, lost_portsAt] at hdrop hhang
  refine callThen_elim (before := fun _ => lostKept_hardReset hs.lost.ge) (during := fun c l d => ?_)
    (silent := fun c l => .inl ((hhang c l _).trans hs.lost)) (answered := fun a c l d => hk _ (hdrop c l d a))
  rw [← κ.hardReset_drop]
  exact lostKept_hardReset (hdrop c l d none).lost.ge

theorem releaseDrvThen_lostKept {k : State → State} (hk : ∀ u, Running L u → LostKept L (k u)) :
    LostKept L (releaseDrvThen s k) := by
  unfold releaseDrvThen
  split
  next hv => exact closeThen_lostKept hs .drv hv hk
  next => exact hk s hs

theorem releaseThen_lostKept {k : State → State} (hk : ∀ u, Running L u → LostKept L (k u)) :
    LostKept L (releaseThen s k) := by
  unfold releaseThen
  split
  next hv => exact closeThen_lostKept hs .ch hv (k := (releaseDrvThen · k)) fun u hu => releaseDrvThen_lostKept hu hk
  next => exact releaseDrvThen_lostKept hs hk

/-- OPEN from the point where the driver handle is held (R141): the channel handle is taken into an empty register, or
the driver handle is closed. -/
theorem openChannel_lostKept (hdrv : s.drvValid = true) (hch : s.chValid = false) {k : Reply → State → State}
    (hk : ∀ r u, Running L u → LostKept L (k r u)) : LostKept L (openChannel s k) := by
  refine callThen_lostKept hs (by rintro (_ | _) h ⟨⟩) (fun _ => rfl) fun a c l d => ?_
  have hbal := balance_chOpen s.cfg a s.visible s.drvH s.boardName s.cfg.channelIndex
  split
  next hno => exact closeThen_lostKept ((hs.portsAt c l d).observe (hbal.trans (if_pos hno))) .drv hdrv (hk _)
  next hgot => exact hk _ _ ((hs.portsAt c l d).hold (κ := .ch) hch (hbal.trans (if_neg hgot)))

/-- OPEN (R141) finds no handle in `Closed`, so it overwrites none. -/
theorem openBody_lostKept (hfits : s.sessionFits = true) {k : Reply → State → State}
    (hk : ∀ r u, Running L u → LostKept L (k r u)) : LostKept L (openBody s k) := by
  unfold openBody
  split
  next hsess =>
    have hnone : s.noHandles = true := by simpa [State.sessionFits, hsess] using hfits
    obtain ⟨hdrv, hch⟩ := (noHandles_iff s).mp hnone
    refine callThen_lostKept hs (by rintro (_ | _) h ⟨⟩) (fun _ => rfl) fun a c l d => ?_
    have hbal := balance_drvOpen s.cfg a s.visible
    split
    next hno => exact hk _ _ ((hs.portsAt c l d).observe (hbal.trans (if_pos hno)))
    next hgot =>
      have hheld := (hs.portsAt c l d).hold (κ := .drv) hdrv (hbal.trans (if_neg hgot))
      exact openChannel_lostKept hheld rfl hch hk
  next => exact hk _ _ hs

theorem negotiationFails_lostKept (ph : Phase) (code : Word32) {k : Reply → State → State}
    (hk : ∀ r u, Running L u → LostKept L (k r u)) : LostKept L (negotiationFails ph code s k) :=
  releaseThen_lostKept hs fun _ hu => hk _ _ (hu.moveTo _)

theorem negotiateBody_lostKept {k : Reply → State → State} (hk : ∀ r u, Running L u → LostKept L (k r u)) :
    LostKept L (negotiateBody s k) := by
  unfold negotiateBody
  split
  next =>
    refine requestThen_lostKept hs (by rintro (_ | _) h ⟨⟩) (fun _ _ => rfl) fun a u hu => ?_
    split
    next => exact negotiationFails_lostKept hu _ _ hk
    next =>
      refine requestThen_lostKept (hu.moveTo _) (by rintro (_ | _) h ⟨⟩) (fun _ _ => rfl) fun b w hw => ?_
      split
      next => exact negotiationFails_lostKept hw _ _ hk
      next => exact hk _ _ (hw.moveTo _)
  next => exact hk _ _ hs

theorem closeBody_lostKept {k : Reply → State → State} (hk : ∀ r u, Running L u → LostKept L (k r u)) :
    LostKept L (closeBody s k) :=
  releaseThen_lostKept hs fun _ hu => hk _ _ (hu.moveTo _)

theorem runClose_lostKept (r : Reply) : LostKept L (runClose r s) :=
  closeBody_lostKept hs fun _ _ hu => endCommand_lostKept hu r

end

/-- Moving data touches no handle. -/
theorem carried_running (L : HandleCount) : Carried (Running L) (LostKept L) where
  keep hu hs := by
    cases hu with
    | observe o ho => exact hs.observe (balance_of_ofExchange _ ho)
    | enterActive =>
      unfold enterActive
      split
      next => exact hs.moveTo _
      next => exact hs
    | _ => exact ⟨hs.goesOn, hs.lost⟩
  reset hs := lostKept_hardReset hs.lost.ge
  silent {s p} hp hs := by
    have hclose (κ h) : p ≠ HandleKind.close κ h := by
      rintro rfl
      cases κ <;> cases hp none s.visible
    exact .inl ((lost_hang hs.goesOn hclose).trans hs.lost)

theorem runTick_lostKept {L : HandleCount} {s : State} (hs : Running L s) (t : Word32) : LostKept L (runTick t s) :=
  (carried_running L).through_tickBody t hs fun r u hu => by
    split
    next => exact runClose_lostKept hu _
    next => exact .inl hu.lost

/-- What a command leaves lost is what was lost when it was accepted, unless a reset came. -/
theorem exec_lostKept {i : Instr} {s t : State} (hg : s.goesOn) (hfits : s.sessionFits = true)
    (h : exec i s = .next t) : LostKept s.lost t := by
  have hs : Running s.lost s.begin := ⟨hg, rfl⟩
  have hc := carried_running s.lost
  have hend (r u) (hu : Running s.lost u) : LostKept s.lost (endCommand r u) := endCommand_lostKept hu r
  cases i with
  | decode len => cases h; exact hend _ _ (hc.keep_decodeBody _ hs)
  | encode => cases h; exact hend _ _ (hc.keep_encodeBody hs)
  | openCh => cases h; exact openBody_lostKept hs hfits hend
  | negotiate => cases h; exact negotiateBody_lostKept hs hend
  | close => cases h; exact closeBody_lostKept hs hend
  | read t => cases h; exact hc.through_readBody t hs hend
  | write v t => cases h; exact hc.through_writeBody v t hs hend
  | tick t => cases h; exact hc.through_tickBody t hs hend
  | run t =>
    cases h
    split
    next => exact runTick_lostKept (hs.loopOn t) t
    next => exact runClose_lostKept hs _

theorem goesOn_of_idle {s : State} (h : s.activity = .idle) : s.goesOn := fun _ hp => nomatch h.symm.trans hp

theorem goesOn_of_runLoop {s : State} {t : Word32} (h : s.activity = .runLoop t) : s.goesOn :=
  fun _ hp => nomatch h.symm.trans hp

theorem advance_lostKept (s : State) : LostKept s.lost (advance s) := by
  unfold advance
  split
  next => exact .inl rfl
  next t hact => exact runTick_lostKept ⟨goesOn_of_runLoop hact, rfl⟩ t
  next => exact .inl rfl

theorem hostRead_lostKept {r : HostReg} {s t : State} (h : hostRead r s = .next t) : LostKept s.lost t := by
  unfold hostRead at h
  split at h <;> cases h
  exact .inl (lost_observe rfl)

theorem accept_lostKept {s t : State} (hs : s.sessionInv = true) (hb : s.busy = false) (h : accept s = .next t) :
    LostKept s.lost t := by
  have hact : s.activity = .idle := activity_of_sessionInv hs hb
  have hg : s.goesOn := goesOn_of_idle hact
  unfold accept at h
  split at h
  next => exact exec_lostKept hg ((sessionInv_idle hact).mp hs).2 h
  next =>
    cases h
    exact endCommand_lostKept (s := s.begin) ⟨hg, rfl⟩ _

/-- The host's writes touch no handle. -/
theorem hostIdle_lostKept {a : HostAction} {s t : State} (hb : s.busy = false) (hs : s.sessionInv = true)
    (h : hostIdle a s = .next t) : LostKept s.lost t := by
  cases a with
  | setCmd | setArg => cases h; exact .inl rfl
  | setBoardName name =>
    simp only [hostIdle, hostSetName] at h
    split at h <;> cases h
    exact .inl rfl
  | setOutRec k v =>
    simp only [hostIdle, hostSetOut] at h
    split at h <;> cases h
    exact .inl rfl
  | setRxArea i b =>
    simp only [hostIdle, hostSetRx] at h
    split at h <;> cases h
    exact .inl rfl
  | get r => exact hostRead_lostKept h
  | present => exact accept_lostKept hs hb h
  | wait => cases h; exact advance_lostKept s
  | reset => cases h; exact lostKept_hardReset le_rfl

theorem hostBusy_lostKept {a : HostAction} {s t : State} (h : hostBusy a s = .next t) : LostKept s.lost t := by
  cases a with
  | get r => exact hostRead_lostKept h
  | wait => cases h; exact advance_lostKept s
  | reset => cases h; exact lostKept_hardReset le_rfl
  | setCmd | setArg | setBoardName | setOutRec | setRxArea | present => cases h; exact .inl rfl

theorem hostTurn_lostKept {a : HostAction} {s t : State} (hs : s.sessionInv = true) (h : hostTurn a s = .next t) :
    LostKept s.lost t := by
  cases hb : s.busy with
  | true => exact hostBusy_lostKept ((hostTurn_of_busy a hb).symm.trans h)
  | false => exact hostIdle_lostKept hb hs ((hostTurn_of_idle a hb).symm.trans h)

/-- A step loses nothing but by a reset, which loses what is held (R241). -/
theorem step_lostKept {s t : State} (hs : s.sessionInv = true) (h : step s = .next t) : LostKept s.lost t := by
  cases hport : s.hostPort with
  | nil =>
    simp only [step, hport] at h
    cases h
    exact advance_lostKept s
  | cons a rest =>
    rw [step_of_hostPort hport] at h
    have htaken : { s with hostPort := rest }.sessionInv = true := hs
    have hkept := hostTurn_lostKept htaken h
    exact hkept

/-- Settles O55: what is lost does not become less. -/
theorem handlesAreClosedAtMostOnce : Obligations.HandlesAreClosedAtMostOnce := by
  intro s t hs hbooks hstep
  rw [closedAtMostOnce_iff] at hbooks ⊢
  obtain hlost | ⟨hle, -⟩ := step_lostKept hs hstep
  · exact hlost ▸ hbooks
  · exact hbooks.trans hle

/-- Settles O56: without a reset what is lost stays the same. -/
theorem noHandleLeaksWithoutReset : Obligations.NoHandleLeaksWithoutReset := by
  intro s t hs hbooks hstep hnever
  rw [nothingLeaked_iff] at hbooks ⊢
  obtain hlost | ⟨-, hreset⟩ := step_lostKept hs hstep
  · exact hlost.trans hbooks
  · exact absurd hnever (Bool.eq_false_iff.mp hreset)

/-! ### A command that is answered from the port

With no reset, a command whose answers are scripted is in the state it has made, but for `BUSY`, the answers left and
what was observed. -/

/-- The state `s` inside a command that has observed `obs`, with the answers `c` still to come. -/
def State.during (s : State) (c : List PortEvent) (obs : List Obs) : State :=
  { s with busy := true, collab := c, history := s.history ++ obs }

theorem begin_eq_during {s : State} {c : List PortEvent} (hc : s.collab = c) : s.begin = s.during c [] := by
  rw [State.during, List.append_nil, ← hc, State.begin]

section
variable {s : State} (hr : s.resetLine = [])
include hr

/-- A call answered by `a`, which the host sees in the state `s` with `BUSY` = 1 (R15). -/
theorem callThen_during (p : Primitive) (a : Answer) (rest : List PortEvent) (obs : List Obs)
    (k : Answer → State → State) :
    callThen p (s.during (.answer a :: rest) obs) k =
      k a (s.during rest (obs ++ [.call p (some a) s.begin.visible])) := by
  rw [callThen_answered (by exact hr) rfl, State.portsAt, State.observe, ← hr]
  simp only [State.during, List.append_assoc]
  rfl

theorem endCommand_during (r : Reply) (c : List PortEvent) (obs : List Obs) :
    endCommand r (s.during c obs) = { s with collab := c }.ended r obs := by
  rw [endCommand_quiet (by exact hr)]
  rfl

/-- `Release()` with both handles held (R143). -/
theorem releaseThen_during (hch : s.chValid = true) (hdrv : s.drvValid = true) (a b : Answer) (rest : List PortEvent)
    (obs : List Obs) (k : State → State) :
    releaseThen (s.during (.answer a :: .answer b :: rest) obs) k =
      k ((dropDrv (dropCh s)).during rest (obs ++ [.call (.chClose s.chH) (some a) s.begin.visible] ++
        [.call (.drvClose s.drvH) (some b) (dropCh s).begin.visible])) :=
  calc releaseThen (s.during (.answer a :: .answer b :: rest) obs) k
    _ = callThen (.chClose s.chH) (s.during _ _) fun _ u => releaseDrvThen (dropCh u) k := releaseThen_channel hch
    _ = releaseDrvThen ((dropCh s).during _ _) k := callThen_during hr ..
    _ = callThen (.drvClose s.drvH) ((dropCh s).during _ _) fun _ u => k (dropDrv u) := if_pos hdrv
    _ = k ((dropDrv (dropCh s)).during _ _) := callThen_during (s := dropCh s) hr ..

end

/-! ### OPEN -/

theorem noHandle_iff (c : Config) (a : Answer) : a.noHandle c = true ↔ a.ok = false ∨ a.handle c = c.nullHandle := by
  simp [Answer.noHandle]

theorem not_noHandle {c : Config} {a : Answer} (hok : a.ok = true) (hh : a.handle c ≠ c.nullHandle) :
    ¬ a.noHandle c = true := by
  simp [noHandle_iff, hok, hh]

theorem exec_open {s : State} {c : List PortEvent} (hc : s.collab = c) :
    exec .openCh s = .next (openBody (s.during c []) endCommand) := by
  rw [← begin_eq_during hc]
  rfl

section
variable {s : State} (hr : s.resetLine = []) (a : Answer) (rest : List PortEvent) (obs : List Obs)
  (k : Reply → State → State)
include hr

/-- OPEN in `Closed` that is given no driver handle (R141). -/
theorem openBody_refused (hsess : s.sess = .closed) (hno : a.noHandle s.cfg = true) :
    openBody (s.during (.answer a :: rest) obs) k =
      k { status := .openFailed, phase := .first, code := a.code }
        (s.during rest (obs ++ [.call .drvOpen (some a) s.begin.visible])) :=
  (if_pos hsess).trans ((callThen_during hr ..).trans (if_pos hno))

/-- OPEN in `Closed` that is given a driver handle (R141). -/
theorem openBody_granted (hsess : s.sess = .closed) (hgot : ¬ a.noHandle s.cfg = true) :
    openBody (s.during (.answer a :: rest) obs) k =
      openChannel ((holdDrv (a.handle s.cfg) s).during rest (obs ++ [.call .drvOpen (some a) s.begin.visible])) k :=
  (if_pos hsess).trans ((callThen_during hr ..).trans (if_neg hgot))

/-- OPEN that is given a channel handle (R141). -/
theorem openChannel_granted (hgot : ¬ a.noHandle s.cfg = true) :
    openChannel (s.during (.answer a :: rest) obs) k =
      k {} ((holdCh (a.handle s.cfg) s).during rest
        (obs ++ [.call (.chOpen s.drvH s.boardName s.cfg.channelIndex) (some a) s.begin.visible])) :=
  (callThen_during hr ..).trans (if_neg hgot)

/-- OPEN that is given no channel handle closes the driver handle (R141, R142 (b)). -/
theorem openChannel_refused (c : Answer) (hno : a.noHandle s.cfg = true) :
    openChannel (s.during (.answer a :: .answer c :: rest) obs) k =
      k { status := .openFailed, phase := .second, code := a.code } ((dropDrv s).during rest
        (obs ++ [.call (.chOpen s.drvH s.boardName s.cfg.channelIndex) (some a) s.begin.visible] ++
          [.call (.drvClose s.drvH) (some c) s.begin.visible])) :=
  (callThen_during hr ..).trans ((if_pos hno).trans (callThen_during hr ..))

end

/-- Settles O24. -/
theorem openFailsWithoutDriverHandle : Obligations.OpenFailsWithoutDriverHandle := by
  intro s a rest hsess hr hc hno
  rw [exec_open hc, openBody_refused hr _ _ _ _ hsess ((noHandle_iff ..).mpr hno), endCommand_during hr]
  rfl

/-- Settles O23. -/
theorem openAcquiresBothHandles : Obligations.OpenAcquiresBothHandles := by
  intro s a b rest hsess hr hc haok hah hbok hbh
  rw [exec_open hc]
  refine congrArg _ ?_
  calc openBody (s.during _ []) endCommand
    _ = openChannel ((holdDrv _ s).during _ _) endCommand := openBody_granted hr _ _ _ _ hsess (not_noHandle haok hah)
    _ = endCommand {} ((holdCh _ (holdDrv _ s)).during _ _) :=
      openChannel_granted (s := holdDrv _ s) hr _ _ _ _ (not_noHandle hbok hbh)
    _ = _ := endCommand_during (s := holdCh _ (holdDrv _ s)) hr ..

/-- Settles O25. -/
theorem openFailsWithoutChannelHandle : Obligations.OpenFailsWithoutChannelHandle := by
  intro s a b c rest hsess hr hc haok hah hno
  rw [exec_open hc]
  refine congrArg _ ?_
  calc openBody (s.during _ []) endCommand
    _ = openChannel ((holdDrv _ s).during _ _) endCommand := openBody_granted hr _ _ _ _ hsess (not_noHandle haok hah)
    _ = endCommand _ ((dropDrv (holdDrv _ s)).during _ _) :=
      openChannel_refused (s := holdDrv _ s) hr _ _ _ _ c ((noHandle_iff ..).mpr hno)
    _ = _ := endCommand_during (s := dropDrv (holdDrv _ s)) hr ..

/-! ### NEGOTIATE and CLOSE -/

theorem exec_negotiate {s : State} {c : List PortEvent} (hc : s.collab = c) :
    exec .negotiate s = .next (negotiateBody (s.during c []) endCommand) := by
  rw [← begin_eq_during hc]
  rfl

theorem exec_close {s : State} {c : List PortEvent} (hc : s.collab = c) :
    exec .close s = .next (closeBody (s.during c []) endCommand) := by
  rw [← begin_eq_during hc]
  rfl

/-- `SetHostState`, as NEGOTIATE issues it in the state `s` and as it is answered by `a` (R144). -/
def State.hostRequest (s : State) (a : Answer) : Obs :=
  .call (.setHostState s.chH s.cfg.hostStateReady s.cfg.negotiateTimeoutMs) (some a) s.begin.visible

/-- `SetBusState`, as NEGOTIATE issues it in the state `s` and as it is answered by `a` (R144). -/
def State.busRequest (s : State) (a : Answer) : Obs :=
  .call (.setBusState s.chH s.cfg.busStateOn s.cfg.negotiateTimeoutMs) (some a) s.begin.visible

/-- NEGOTIATE (R144) from the point where the host state is set. -/
def busPhase (s : State) (k : Reply → State → State) : State :=
  callThen (.setBusState s.chH s.cfg.busStateOn s.cfg.negotiateTimeoutMs) s fun a s =>
    if a.code ≠ s.cfg.rcOk then negotiationFails .second a.code s k else k {} (moveTo .busOn s)

theorem negotiateBody_of_opened {s : State} (hsess : s.sess = .opened) (k : Reply → State → State) :
    negotiateBody s k =
      callThen (.setHostState s.chH s.cfg.hostStateReady s.cfg.negotiateTimeoutMs) s fun a s =>
        if a.code ≠ s.cfg.rcOk then negotiationFails .first a.code s k else busPhase (moveTo .hostReady s) k :=
  if_pos hsess

section
variable {s : State} (hr : s.resetLine = [])
include hr

/-- NEGOTIATE in `Opened` whose host phase fails (R144). -/
theorem negotiateBody_fails (hsess : s.sess = .opened) {a : Answer} (ha : a.code ≠ s.cfg.rcOk) (rest : List PortEvent)
    (obs : List Obs) (k : Reply → State → State) :
    negotiateBody (s.during (.answer a :: rest) obs) k =
      negotiationFails .first a.code (s.during rest (obs ++ [s.hostRequest a])) k :=
  (negotiateBody_of_opened (s := s.during _ _) hsess k).trans ((callThen_during hr ..).trans (if_pos ha))

/-- NEGOTIATE in `Opened` whose host phase is accepted (R144). -/
theorem negotiateBody_accepted (hsess : s.sess = .opened) {a : Answer} (ha : a.code = s.cfg.rcOk)
    (rest : List PortEvent) (obs : List Obs) (k : Reply → State → State) :
    negotiateBody (s.during (.answer a :: rest) obs) k =
      busPhase ((moveTo .hostReady s).during rest (obs ++ [s.hostRequest a])) k :=
  (negotiateBody_of_opened (s := s.during _ _) hsess k).trans ((callThen_during hr ..).trans (if_neg (not_not.mpr ha)))

theorem busPhase_fails {a : Answer} (ha : a.code ≠ s.cfg.rcOk) (rest : List PortEvent) (obs : List Obs)
    (k : Reply → State → State) :
    busPhase (s.during (.answer a :: rest) obs) k =
      negotiationFails .second a.code (s.during rest (obs ++ [s.busRequest a])) k :=
  (callThen_during hr ..).trans (if_pos ha)

theorem busPhase_accepted {a : Answer} (ha : a.code = s.cfg.rcOk) (rest : List PortEvent) (obs : List Obs)
    (k : Reply → State → State) :
    busPhase (s.during (.answer a :: rest) obs) k =
      k {} ((moveTo .busOn s).during rest (obs ++ [s.busRequest a])) :=
  (callThen_during hr ..).trans (if_neg (not_not.mpr ha))

/-- A release with both handles held, and the end of the command in `Closed` (R143, R144, R148). -/
theorem release_closes (hch : s.chValid = true) (hdrv : s.drvValid = true) (r : Reply) (a b : Answer)
    (rest : List PortEvent) (obs : List Obs) :
    releaseThen (s.during (.answer a :: .answer b :: rest) obs) (fun u => endCommand r (moveTo .closed u)) =
      State.ended { moveTo .closed (dropDrv (dropCh s)) with collab := rest } r
        (obs ++ [.call (.chClose s.chH) (some a) s.begin.visible] ++
          [.call (.drvClose s.drvH) (some b) (dropCh s).begin.visible]) :=
  (releaseThen_during hr hch hdrv ..).trans (endCommand_during (s := moveTo .closed (dropDrv (dropCh s))) hr ..)

end

/-- Settles O27. -/
theorem negotiateReachesBusOn : Obligations.NegotiateReachesBusOn := by
  intro s a b rest hsess hr hc ha hb
  rw [exec_negotiate hc]
  refine congrArg _ ?_
  calc negotiateBody (s.during _ []) endCommand
    _ = busPhase ((moveTo .hostReady s).during _ _) endCommand := negotiateBody_accepted hr hsess ha ..
    _ = endCommand {} ((moveTo .busOn (moveTo .hostReady s)).during _ _) :=
      busPhase_accepted (s := moveTo .hostReady s) hr hb ..
    _ = _ := endCommand_during (s := moveTo .busOn (moveTo .hostReady s)) hr ..

/-- Settles O28. -/
theorem negotiateFailsInHostPhase : Obligations.NegotiateFailsInHostPhase := by
  intro s a b c rest hsess hr hc hch hdrv ha
  rw [exec_negotiate hc]
  refine congrArg _ ?_
  calc negotiateBody (s.during _ []) endCommand
    _ = negotiationFails .first a.code (s.during _ _) endCommand := negotiateBody_fails hr hsess ha ..
    _ = _ := release_closes hr hch hdrv ..

/-- Settles O29. -/
theorem negotiateFailsInBusPhase : Obligations.NegotiateFailsInBusPhase := by
  intro s a b c d rest hsess hr hc hch hdrv ha hb
  rw [exec_negotiate hc]
  refine congrArg _ ?_
  calc negotiateBody (s.during _ []) endCommand
    _ = busPhase ((moveTo .hostReady s).during _ _) endCommand := negotiateBody_accepted hr hsess ha ..
    _ = negotiationFails .second b.code ((moveTo .hostReady s).during _ _) endCommand :=
      busPhase_fails (s := moveTo .hostReady s) hr hb ..
    _ = _ := release_closes (s := moveTo .hostReady s) hr hch hdrv ..

/-- Settles O30. -/
theorem closeReleasesChannelThenDriver : Obligations.CloseReleasesChannelThenDriver := by
  intro s a b rest hr hc hch hdrv
  rw [exec_close hc]
  exact congrArg _ (release_closes hr hch hdrv ..)

/-! ### The moves of `STATE` -/

/-- A move that needs no reset can be made with one. -/
theorem sessionMoves_of_noReset {i : Instr} {a b : Session} {e : Bool} (h : sessionMoves i a b e false = true)
    (w : Bool) : sessionMoves i a b e w = true := by
  simp only [sessionMoves, Bool.false_and, Bool.or_false, Bool.or_eq_true] at h ⊢
  tauto

/-- A command that has not ended can stand wherever one that has ended can. -/
theorem sessionMoves_of_ended {i : Instr} {a b : Session} {w : Bool} (h : sessionMoves i a b true w = true)
    (e : Bool) : sessionMoves i a b e w = true := by
  cases i <;> simp_all [sessionMoves]
  tauto

/-- A reset can move `STATE` to `Closed`. -/
theorem sessionMoves_reset (i : Instr) (a : Session) (e : Bool) : sessionMoves i a .closed e true = true := by
  simp [sessionMoves]

/-- `STATE` can always stay. -/
theorem sessionMoves_same (i : Instr) (a : Session) (e w : Bool) : sessionMoves i a a e w = true := by
  simp [sessionMoves]

/-- The move of `STATE` from `s` to `t` is one that R140 gives the command `i`, or a reset's. -/
def Listed (i : Instr) (s t : State) : Prop :=
  sessionMoves i s.sess t.sess (t.activity == .idle) (decide (s.seen Obs.isReset < t.seen Obs.isReset)) = true

/-- The command `i`, begun in `s`, has run up to `u`, whose `STATE` it may leave standing: when it ends if `e` is true,
when it never ends if `e` is false. No reset has been forgotten. -/
structure Within (i : Instr) (s : State) (e : Bool) (u : State) : Prop where
  seen : s.seen Obs.isReset ≤ u.seen Obs.isReset
  moved : sessionMoves i s.sess u.sess e false = true

theorem seen_observe (s : State) (o : Obs) (f : Obs → Bool) :
    (s.observe o).seen f = s.seen f + if f o then 1 else 0 := by
  simp [State.seen]

section
variable {i : Instr} {s u : State} {e : Bool} (hu : Within i s e u)
include hu

theorem Within.observe (o : Obs) : Within i s e (u.observe o) :=
  ⟨hu.seen.trans (by rw [seen_observe]; omega), hu.moved⟩

theorem Within.portsAt (c : List PortEvent) (l : List ResetInput) (d : Nat) : Within i s e (u.portsAt c l d) :=
  ⟨hu.seen, hu.moved⟩

theorem Within.moveTo {x : Session} {e' : Bool} (hx : sessionMoves i s.sess x e' false = true) :
    Within i s e' (moveTo x u) := ⟨hu.seen, hx⟩

theorem Within.listed_hardReset : Listed i s (hardReset u) := by
  have hseen : s.seen Obs.isReset < (hardReset u).seen Obs.isReset := by
    have hadd : (hardReset u).seen Obs.isReset = u.seen Obs.isReset + 1 := seen_observe u .reset Obs.isReset
    have := hu.seen
    omega
  rw [Listed, decide_eq_true hseen]
  exact sessionMoves_reset ..

theorem Within.listed_hang (p : Primitive) : Listed i s (hang p u) := by
  have hmoved : sessionMoves i s.sess u.sess false false = true := by
    cases e with
    | true => exact sessionMoves_of_ended hu.moved false
    | false => exact hu.moved
  exact sessionMoves_of_noReset hmoved _

end

/-- A command that is where it could end is where it may stop. -/
theorem Within.listed {i : Instr} {s u : State} (hu : Within i s true u) : Listed i s u :=
  sessionMoves_of_noReset (sessionMoves_of_ended hu.moved _) _

theorem endCommand_listed {i : Instr} {s u : State} (r : Reply) (hu : Within i s true u) :
    Listed i s (endCommand r u) :=
  have hframe := hu.observe (.response (rspWord r.status r.phase r.verify u.sess r.term) r.code)
  orReset_elim
    (fun _ => Within.listed ⟨hframe.seen, hu.moved⟩)
    (fun _ => (hu.portsAt ..).listed_hardReset)

section
variable {i : Instr} {s u : State} {e : Bool} (hu : Within i s e u)
include hu

theorem callThen_listed {p : Primitive} {k : Answer → State → State}
    (hk : ∀ a v, Within i s e v → Listed i s (k a v)) : Listed i s (callThen p u k) :=
  have hcall (a c l d) : Within i s e ((u.portsAt c l d).observe (.call p a u.visible)) :=
    (hu.portsAt c l d).observe _
  callThen_elim
    (before := fun _ => (hu.portsAt ..).listed_hardReset)
    (during := fun c l d => (hcall none c l d).listed_hardReset)
    (silent := fun c l => (hcall none c l _).listed_hang p)
    (answered := fun a c l d => hk a _ (hcall (some a) c l d))

theorem releaseDrvThen_listed {k : State → State} (hk : ∀ v, Within i s e v → Listed i s (k v)) :
    Listed i s (releaseDrvThen u k) := by
  unfold releaseDrvThen
  split
  next => exact callThen_listed hu fun _ v hv => hk _ ⟨hv.seen, hv.moved⟩
  next => exact hk _ hu

theorem releaseThen_listed {k : State → State} (hk : ∀ v, Within i s e v → Listed i s (k v)) :
    Listed i s (releaseThen u k) := by
  unfold releaseThen
  split
  next => exact callThen_listed hu fun _ v hv => releaseDrvThen_listed (u := dropCh v) ⟨hv.seen, hv.moved⟩ hk
  next => exact releaseDrvThen_listed hu hk

/-- A command that may end in `Closed` can do so by a release. -/
theorem release_listed (hclosed : sessionMoves i s.sess .closed true false = true) (r : Reply) :
    Listed i s (releaseThen u fun v => endCommand r (moveTo .closed v)) :=
  releaseThen_listed hu fun _ hv => endCommand_listed r (hv.moveTo hclosed)

end

/-- A command that may enter `Active` from `BusOn` enters `BusOn` from `BusOn` only. -/
theorem sessionMoves_active {i : Instr} {a : Session} (hi : sessionMoves i .busOn .active true false = true)
    (h : sessionMoves i a .busOn true false = true) : sessionMoves i a .active true false = true := by
  cases i <;> simp_all [sessionMoves]

/-- Moving data makes no other move than from `BusOn` to `Active` (R162). -/
theorem carried_within {i : Instr} (s : State) (hi : sessionMoves i .busOn .active true false = true) :
    Carried (Within i s true) (Listed i s) where
  keep hu hs := by
    cases hu with
    | observe o => exact hs.observe o
    | enterActive =>
      unfold enterActive
      split
      next hbus => exact hs.moveTo (sessionMoves_active hi (hbus ▸ hs.moved))
      next => exact hs
    | _ => exact ⟨hs.seen, hs.moved⟩
  reset hs := hs.listed_hardReset
  silent _ hs := hs.listed_hang _

theorem Within.begin (i : Instr) (s : State) : Within i s true s.begin := ⟨le_rfl, sessionMoves_same ..⟩

/-! Each command is followed from where it is accepted to where it stops. -/

theorem execDecode_listed (len : Word32) (s : State) :
    Listed (.decode len) s (endCommand (decodeBody len.toNat s.begin).1 (decodeBody len.toNat s.begin).2) := by
  have hs := Within.begin (.decode len) s
  refine endCommand_listed _ ?_
  obtain ⟨-, h⟩ | ⟨-, h⟩ | ⟨-, -, h⟩ := decodeBody_cases len.toNat s.begin <;> rw [h] <;> exact ⟨hs.seen, hs.moved⟩

theorem execEncode_listed (s : State) :
    Listed .encode s (endCommand (encodeBody s.begin).1 (encodeBody s.begin).2) := by
  have hs := Within.begin .encode s
  refine endCommand_listed _ ?_
  obtain ⟨-, h⟩ | ⟨-, h⟩ := encodeBody_cases s.begin <;> rw [h] <;> exact ⟨hs.seen, hs.moved⟩

theorem openChannel_listed {s u : State} (hsess : s.sess = .closed) (hu : Within .openCh s true u) :
    Listed .openCh s (openChannel u endCommand) :=
  callThen_listed hu fun a v hv => by
    split
    next => exact callThen_listed hv fun _ w hw => endCommand_listed _ ⟨hw.seen, hw.moved⟩
    next => exact endCommand_listed _ ⟨hv.seen, by rw [hsess]; rfl⟩

theorem execOpen_listed (s : State) : Listed .openCh s (openBody s.begin endCommand) := by
  have hs := Within.begin .openCh s
  unfold openBody
  split
  next hsess =>
    refine callThen_listed hs fun a u hu => ?_
    split
    next => exact endCommand_listed _ hu
    next => exact openChannel_listed hsess ⟨hu.seen, hu.moved⟩
  next => exact endCommand_listed _ hs

/-- NEGOTIATE stands in `HostReady` only while it waits, and ends in `BusOn` or `Closed` (R144). -/
theorem execNegotiate_listed (s : State) : Listed .negotiate s (negotiateBody s.begin endCommand) := by
  have hs := Within.begin .negotiate s
  by_cases hsess : s.sess = .opened
  · have hclosed : sessionMoves .negotiate s.sess .closed true false = true := by rw [hsess]; rfl
    have hready : sessionMoves .negotiate s.sess .hostReady false false = true := by rw [hsess]; rfl
    have hbus : sessionMoves .negotiate s.sess .busOn true false = true := by rw [hsess]; rfl
    rw [negotiateBody_of_opened (by exact hsess)]
    refine callThen_listed hs fun a u hu => ?_
    split
    next => exact release_listed hu hclosed _
    next =>
      refine callThen_listed (hu.moveTo hready) fun b v hv => ?_
      split
      next => exact release_listed hv hclosed _
      next => exact endCommand_listed _ (hv.moveTo hbus)
  · rw [negotiateBody, if_neg (by exact hsess)]
    exact endCommand_listed _ hs

theorem runTick_listed {s u : State} {t t' : Word32} (hu : Within (.run t) s true u) :
    Listed (.run t) s (runTick t' u) := by
  have hclosed : sessionMoves (.run t) s.sess .closed true false = true := by simp [sessionMoves]
  refine (carried_within s rfl).through_tickBody t' hu fun r v hv => ?_
  split
  next => exact release_listed hv hclosed _
  next => exact hv.listed

/-- Settles O33: every command stays `Within` what it may do, up to its end, a reset or silence. -/
theorem sessionMovesOnlyAsListed : Obligations.SessionMovesOnlyAsListed := by
  intro i s t h
  have hs := Within.begin i s
  have hend (r u) (hu : Within i s true u) : Listed i s (endCommand r u) := endCommand_listed r hu
  cases i with
  | decode len => cases h; exact execDecode_listed len s
  | encode => cases h; exact execEncode_listed s
  | openCh => cases h; exact execOpen_listed s
  | negotiate => cases h; exact execNegotiate_listed s
  | close => cases h; exact release_listed hs (by simp [sessionMoves]) _
  | read t => cases h; exact (carried_within s rfl).through_readBody t hs hend
  | write v t => cases h; exact (carried_within s rfl).through_writeBody v t hs hend
  | tick t => cases h; exact (carried_within s rfl).through_tickBody t hs hend
  | run t =>
    cases h
    split
    next => exact runTick_listed (u := loopOn t s.begin) ⟨hs.seen, hs.moved⟩
    next => exact release_listed hs (by simp [sessionMoves]) _

/-! ### `BusOn` -/

/-- Only a NEGOTIATE in `Opened` moves `STATE` to `BusOn` (R140). -/
theorem negotiate_of_sessionMoves_busOn {i : Instr} {a : Session} {e w : Bool} (ha : a ≠ .busOn)
    (h : sessionMoves i a .busOn e w = true) : i = .negotiate ∧ a = .opened := by
  cases i <;> simp_all [sessionMoves]

/-- A failed NEGOTIATE does not end in `BusOn`: what it does is what CLOSE does. -/
theorem negotiationFails_sess_ne_busOn (ph : Phase) (code : Word32) {u : State} (hu : u.sess ≠ .busOn) :
    (negotiationFails ph code u endCommand).sess ≠ .busOn := by
  have hlisted : Listed .close u (negotiationFails ph code u endCommand) :=
    release_listed (e := true) ⟨le_rfl, sessionMoves_same ..⟩ (by simp [sessionMoves]) _
  intro hbus
  rw [Listed, hbus] at hlisted
  exact nomatch (negotiate_of_sessionMoves_busOn hu hlisted).1

/-- If `t` is in `BusOn`, then from `s` on exactly the two requests of NEGOTIATE were issued and both were accepted, and
one more entry was made (R146). -/
def BusOnAgreed (s t : State) : Prop :=
  t.sess = .busOn → ∃ (a b : Answer) (v w : Visible) (r : Obs), a.code = s.cfg.rcOk ∧ b.code = s.cfg.rcOk ∧
    t.history = s.history ++
      [.call (.setHostState s.chH s.cfg.hostStateReady s.cfg.negotiateTimeoutMs) (some a) v,
       .call (.setBusState s.chH s.cfg.busStateOn s.cfg.negotiateTimeoutMs) (some b) w, r]

section
variable {s t : State}

theorem busOnAgreed_of_sess (h : t.sess ≠ .busOn) : BusOnAgreed s t := fun hbus => absurd hbus h

theorem busOnAgreed_hardReset (u : State) : BusOnAgreed s (hardReset u) := busOnAgreed_of_sess (fun h => nomatch h)

theorem busPhase_busOnAgreed {u : State} {a : Answer} {v : Visible} (hsess : u.sess ≠ .busOn) (hcfg : u.cfg = s.cfg)
    (hch : u.chH = s.chH) (ha : a.code = s.cfg.rcOk)
    (hhist : u.history = s.history ++
      [.call (.setHostState s.chH s.cfg.hostStateReady s.cfg.negotiateTimeoutMs) (some a) v]) :
    BusOnAgreed s (busPhase u endCommand) :=
  callThen_elim
    (before := fun _ => busOnAgreed_hardReset _)
    (during := fun _ _ _ => busOnAgreed_hardReset _)
    (silent := fun _ _ => busOnAgreed_of_sess hsess)
    (answered := fun b _ _ _ => by
      split
      next => exact busOnAgreed_of_sess (negotiationFails_sess_ne_busOn _ _ hsess)
      next hb =>
        refine orReset_elim (fun _ _ => ?_) (fun _ => busOnAgreed_hardReset _)
        have hbok : b.code = s.cfg.rcOk := hcfg ▸ not_not.mp hb
        refine ⟨a, b, v, u.visible, .response (rspWord .ok .none .notDone .busOn false) 0#32, ha, hbok, ?_⟩
        rw [List.append_cons s.history, ← hhist, ← hcfg, ← hch]
        exact List.append_assoc ..)

/-- NEGOTIATE in `Opened` that ends in `BusOn` (R144). -/
theorem negotiateBody_busOnAgreed (hsess : s.sess = .opened) : BusOnAgreed s (negotiateBody s.begin endCommand) := by
  have hne : s.sess ≠ .busOn := fun h => nomatch hsess.symm.trans h
  rw [negotiateBody_of_opened (by exact hsess)]
  refine callThen_elim
    (before := fun _ => busOnAgreed_hardReset _)
    (during := fun _ _ _ => busOnAgreed_hardReset _)
    (silent := fun _ _ => busOnAgreed_of_sess hne)
    (answered := fun a _ _ _ => ?_)
  split
  next => exact busOnAgreed_of_sess (negotiationFails_sess_ne_busOn _ _ hne)
  next ha => exact busPhase_busOnAgreed (fun h => nomatch h) rfl rfl (not_not.mp ha) rfl

end

/-! ### The release under answered requests -/

/-- What a release leaves as it is: everything but the handles, the answers to come and the history (R143). -/
structure KeptByRelease (s u : State) : Prop where
  input : s.sameInput u
  output : s.sameOutput u
  operands : s.sameOperands u
  ports : s.samePorts u

theorem KeptByRelease.refl (s : State) : KeptByRelease s s :=
  ⟨⟨fun _ => rfl, rfl, fun _ => rfl⟩, ⟨fun _ => rfl, fun _ => rfl, rfl, fun _ => rfl⟩, ⟨rfl, rfl, rfl, rfl⟩,
    ⟨rfl, rfl, rfl⟩⟩

section
variable {P : State → Prop} {s u : State} {k : State → State} (hc : u.cooperative = true) (hu : KeptByRelease s u)
include hc hu

theorem releaseDrvThen_of_cooperative (hch : u.chValid = false)
    (hk : ∀ v, v.cooperative = true → v.noHandles = true → KeptByRelease s v → P (k v)) :
    P (releaseDrvThen u k) := by
  unfold releaseDrvThen
  split
  next =>
    refine callThen_of_cooperative hc fun a c l d hcoop => hk _ hcoop ?_ { hu with }
    exact (noHandles_iff _).mpr ⟨rfl, hch⟩
  next h => exact hk _ hc ((noHandles_iff _).mpr ⟨Bool.eq_false_of_not_eq_true h, hch⟩) hu

/-- With every request answered a release comes to its end, with no handle held (R143). -/
theorem releaseThen_of_cooperative
    (hk : ∀ v, v.cooperative = true → v.noHandles = true → KeptByRelease s v → P (k v)) :
    P (releaseThen u k) := by
  unfold releaseThen
  split
  next =>
    refine callThen_of_cooperative hc fun a c l d hcoop => ?_
    exact releaseDrvThen_of_cooperative (u := dropCh _) hcoop { hu with } rfl hk
  next h => exact releaseDrvThen_of_cooperative hc hu (Bool.eq_false_of_not_eq_true h) hk

end

theorem endCommand_of_cooperative {P : State → Prop} {s : State} {r : Reply} (hs : s.cooperative = true)
    (h : ∀ l, P (respond r (s.portsAt s.collab l s.draws))) : P (endCommand r s) :=
  orReset_of_cooperative hs fun l _ => h l

/-- A release under answered requests, and the end of the command in `Closed` (R143, R144, R148). -/
theorem release_of_cooperative {P : State → Prop} {s u : State} {r : Reply} (hc : u.cooperative = true)
    (hu : KeptByRelease s u)
    (h : ∀ v, v.noHandles = true → KeptByRelease s v → P (respond r (moveTo .closed v))) :
    P (releaseThen u fun v => endCommand r (moveTo .closed v)) :=
  releaseThen_of_cooperative hc hu fun v hcv hnone hv =>
    endCommand_of_cooperative hcv fun l => h (v.portsAt v.collab l v.draws) hnone { hv with }

/-- With no handle held the history of a CLOSE is its response (R149 (a)). -/
theorem closeBody_history {s : State} (hs : s.cooperative = true) (hch : s.chValid = false)
    (hdrv : s.drvValid = false) :
    (closeBody s.begin endCommand).history =
      s.history ++ [.response (rspWord .ok .none .notDone .closed false) 0#32] := by
  rw [closeBody, releaseThen_none (by exact hch) (by exact hdrv)]
  exact endCommand_of_cooperative (P := fun t => t.history = _) hs fun _ => rfl

/-- What a CLOSE leaves of `s` (R148, R149 (c)). -/
structure ClosedBy (s t : State) : Prop where
  sess : t.sess = .closed
  noHandles : t.noHandles = true
  replied : t.repliedWith {}
  kept : KeptByRelease s t

theorem closeBody_closedBy {s : State} (hs : s.cooperative = true) : ClosedBy s (closeBody s.begin endCommand) :=
  release_of_cooperative (u := s.begin) hs { KeptByRelease.refl s with } fun _ hnone hv =>
    { sess := rfl, noHandles := hnone, replied := ⟨rfl, rfl, rfl, rfl, rfl, rfl, rfl, rfl⟩, kept := { hv with } }

/-- Settles O31. -/
theorem closeAlwaysEndsClosed : Obligations.CloseAlwaysEndsClosed := by
  intro s hs
  obtain ⟨hsess, hnone, hreplied, hin, hout, hops, hports⟩ := closeBody_closedBy hs
  obtain ⟨hdrv, hch⟩ := (noHandles_iff _).mp hnone
  exact ⟨_, rfl, hsess, hch, hdrv, hreplied, hin, hout, hops, hports, closeBody_history hs⟩

/-- `t` is in `BusOn`, or NEGOTIATE has failed and given the handles back (R146). -/
def BusOnOrReverted (t : State) : Prop :=
  t.sess = .busOn ∨ (t.sess = .closed ∧ t.chValid = false ∧ t.drvValid = false ∧ t.lastStatus = .negotiationFailed)

theorem negotiationFails_reverted {u : State} (ph : Phase) (code : Word32) (hc : u.cooperative = true) :
    BusOnOrReverted (negotiationFails ph code u endCommand) :=
  release_of_cooperative hc (.refl u) fun _ hnone _ =>
    have ⟨hdrv, hch⟩ := (noHandles_iff _).mp hnone
    .inr ⟨rfl, hch, hdrv, rfl⟩

theorem negotiateBody_busOnOrReverted {s : State} (hc : s.cooperative = true) (hsess : s.sess = .opened) :
    BusOnOrReverted (negotiateBody s.begin endCommand) := by
  rw [negotiateBody_of_opened (by exact hsess)]
  refine callThen_of_cooperative hc fun a _ _ _ hca => ?_
  split
  next => exact negotiationFails_reverted _ _ hca
  next =>
    refine callThen_of_cooperative hca fun b _ _ _ hcb => ?_
    split
    next => exact negotiationFails_reverted _ _ hcb
    next => exact endCommand_of_cooperative hcb fun _ => .inl rfl

/-- Settles O32: by O33 only NEGOTIATE in `Opened` has to be looked at. -/
theorem busOnOnlyAfterBothPhasesSucceed : Obligations.BusOnOnlyAfterBothPhasesSucceed := by
  refine ⟨fun i s t h hne hbus => ?_, fun s t hc hsess h => ?_⟩
  · have hmoves := sessionMovesOnlyAsListed i s t h
    rw [hbus] at hmoves
    obtain ⟨rfl, hsess⟩ := negotiate_of_sessionMoves_busOn hne hmoves
    cases h
    exact ⟨rfl, hsess, negotiateBody_busOnAgreed hsess hbus⟩
  · cases h
    exact negotiateBody_busOnOrReverted hc hsess

end Sys2Proof.Machine

/-! SUPPORT. The family of `42_session_io.md`: READ (R161, R162, R167), WRITE with and without its read-back (R164 to
R166), the encoded record that is used once (R165, R247), and the sessions without transfers (R160). -/

namespace Sys2Proof.Machine

/-! ### What both transfers end in -/

/-- In a ready session a successful transfer ends in `Active` (R162). -/
theorem enterActive_of_ready {s : State} (h : s.sess = .busOn ∨ s.sess = .active) :
    enterActive s = moveTo .active s := by
  obtain hbus | hactive := h
  · exact if_pos hbus
  · have hne : s.sess ≠ .busOn := fun hbus => nomatch hactive.symm.trans hbus
    rw [enterActive, if_neg hne, moveTo, ← hactive]

/-- What a buffer filled with an answer's first `n` bytes reads as, where the answer gives a byte (log 5). -/
theorem Region.read_filled_take {w n i : Nat} {vs : List (BitVec w)} {v : BitVec w} (d : Nat) (hi : i < n)
    (hv : vs[i]? = some v) : (Region.filled (vs.take n) d).read i = v := by
  rw [Region.read_filled, List.getElem?_take_of_lt hi, hv, Option.getD_some]

/-- The history a command leaves that has observed `obs`. -/
theorem ended_history_obs (s : State) (r : Reply) (obs : List Obs) :
    (s.ended r obs).history =
      s.history ++ (obs ++ [.response (rspWord r.status r.phase r.verify s.sess r.term) r.code]) :=
  List.append_assoc ..

/-! ### READ -/

/-- `ChRead`, as READ issues it in the state `s` and as it is answered by `a` (R161). -/
def State.readRequest (s : State) (t : Word32) (a : Answer) : Obs :=
  .call (.chRead s.chH s.cfg.areaIndex s.cfg.areaOffset inAreaBytes t) (some a) (voidIn s).begin.visible

theorem exec_read (t : Word32) {s : State} {c : List PortEvent} (hc : s.collab = c) :
    exec (.read t) s = .next (readBody t (s.during c []) endCommand) := by
  rw [← begin_eq_during hc]
  rfl

section
variable {s : State} (hr : s.resetLine = []) (hsess : s.sess = .busOn ∨ s.sess = .active) (t : Word32) {a : Answer}
  (rest : List PortEvent) (obs : List Obs) (k : Reply → State → State)
include hr hsess

/-- READ in a ready session whose request fails (R161). -/
theorem readBody_fails (ha : a.code ≠ s.cfg.rcOk) :
    readBody t (s.during (.answer a :: rest) obs) k =
      k { status := .readFailed, code := a.code }
        ((voidRx (voidIn s)).during rest (obs ++ [s.readRequest t a])) :=
  calc readBody t (s.during (.answer a :: rest) obs) k
    _ = callThen _ ((voidIn s).during (.answer a :: rest) obs) _ := if_pos ((ready_iff s).mpr hsess)
    _ = _ := (callThen_during (s := voidIn s) hr ..).trans (if_pos ha)

/-- READ in a ready session whose request succeeds (R161, R162). -/
theorem readBody_succeeds (ha : a.code = s.cfg.rcOk) :
    readBody t (s.during (.answer a :: rest) obs) k =
      k {} ((moveTo .active (storeRx a.data (voidIn s))).during rest (obs ++ [s.readRequest t a])) :=
  calc readBody t (s.during (.answer a :: rest) obs) k
    _ = callThen _ ((voidIn s).during (.answer a :: rest) obs) _ := if_pos ((ready_iff s).mpr hsess)
    _ = k {} (enterActive ((storeRx a.data (voidIn s)).during rest (obs ++ [s.readRequest t a]))) :=
      (callThen_during (s := voidIn s) hr ..).trans (if_neg (not_not.mpr ha))
    _ = _ := congrArg (k {}) (enterActive_of_ready hsess)

end

/-- Settles O34: the bytes are those `RX_AREA` is filled with, the rest is unchanged by what READ writes. -/
theorem readFillsTheInputArea : Obligations.ReadFillsTheInputArea := by
  intro s tm a rest hsess hr hc ha
  have hexec : exec (.read tm) s = .next
      (State.ended { moveTo .active (storeRx a.data (voidIn s)) with collab := rest } {} [s.readRequest tm a]) := by
    rw [exec_read tm hc, readBody_succeeds hr hsess tm rest [] endCommand ha]
    exact congrArg _ (endCommand_during (s := moveTo .active (storeRx a.data (voidIn s))) hr ..)
  exact ⟨_, (voidIn s).begin.visible, hexec, ended_repliedWith .., rfl, rfl,
    fun _ _ hi hb => Region.read_filled_take _ hi hb, ⟨rfl, rfl, rfl, rfl⟩,
    ⟨fun _ => rfl, fun _ => rfl, rfl, fun _ => rfl⟩, ⟨rfl, rfl, rfl, rfl⟩, ⟨rfl, rfl, rfl⟩, rfl, ended_history_obs ..⟩

/-- Settles O35. -/
theorem failedReadKeepsTheSession : Obligations.FailedReadKeepsTheSession := by
  intro s tm a rest hsess hr hc ha
  have hexec : exec (.read tm) s = .next
      (State.ended { voidRx (voidIn s) with collab := rest } { status := .readFailed, code := a.code }
        [s.readRequest tm a]) := by
    rw [exec_read tm hc, readBody_fails hr hsess tm rest [] endCommand ha]
    exact congrArg _ (endCommand_during (s := voidRx (voidIn s)) hr ..)
  exact ⟨_, (voidIn s).begin.visible, hexec, ended_repliedWith .., rfl, ⟨rfl, rfl, rfl, rfl⟩, rfl, fun _ => rfl,
    ⟨fun _ => rfl, fun _ => rfl, rfl, fun _ => rfl⟩, ⟨rfl, rfl, rfl, rfl⟩, ⟨rfl, rfl, rfl⟩, rfl, ended_history_obs ..⟩

/-! ### WRITE -/

/-- `ChWrite`, as WRITE issues it in the state `s` and as it is answered by `a` (R164). -/
def State.writeRequest (s : State) (t : Word32) (a : Answer) : Obs :=
  .call (.chWrite s.chH s.cfg.areaIndex s.cfg.areaOffset outAreaBytes s.txBytes t) (some a)
    (consumeTx s).begin.visible

/-- `ChReadBack`, as WRITE.V issues it in the state `s` and as it is answered by `b` (R164). -/
def State.readBackRequest (s : State) (t : Word32) (b : Answer) : Obs :=
  .call (.chReadBack s.chH s.cfg.areaIndex s.cfg.areaOffset outAreaBytes t) (some b) s.begin.visible

/-- What WRITE.V replies when `RB_BUF` is read back (R164, R166). -/
def State.verdict (s : State) : Reply where
  verify := if verifyEqual s.cfg.byteOrder s.rbBuf s.txBuf then .isMatch else .mismatch

theorem verifyEqual_iff (bo : ByteOrder) (rb tx : Memory) :
    verifyEqual bo rb tx = true ↔
      Region.word bo rb 0 = Region.word bo tx 0 ∧ Region.word bo rb 1 = Region.word bo tx 1 := by
  simp [verifyEqual]

/-- The state words agree (R166). -/
theorem verdict_isMatch {s : State} (h : verifyEqual s.cfg.byteOrder s.rbBuf s.txBuf = true) :
    s.verdict = { verify := .isMatch } := by
  rw [State.verdict, if_pos h]

/-- The state words do not agree (R166). -/
theorem verdict_mismatch {s : State} (h : ¬ verifyEqual s.cfg.byteOrder s.rbBuf s.txBuf = true) :
    s.verdict = { verify := .mismatch } := by
  rw [State.verdict, if_neg h]

theorem exec_write_during (v : Bool) (t : Word32) {s : State} {c : List PortEvent} (hc : s.collab = c) :
    exec (.write v t) s = .next (writeBody v t (s.during c []) endCommand) := by
  rw [exec_write, begin_eq_during hc]

section
variable {s : State} (hr : s.resetLine = []) (t : Word32) {a : Answer} (rest : List PortEvent) (obs : List Obs)
  (k : Reply → State → State)
include hr

/-- The read-back fails (R164). -/
theorem readBackThen_fails (ha : a.code ≠ s.cfg.rcOk) :
    readBackThen t (s.during (.answer a :: rest) obs) k =
      k { verify := .readBackFailed, rbCode := a.code }
        ((voidRb (noteRbCode a.code s)).during rest (obs ++ [s.readBackRequest t a])) :=
  (callThen_during hr ..).trans (if_pos ha)

/-- The read-back succeeds, and its bytes are compared (R164, R166). -/
theorem readBackThen_succeeds (ha : a.code = s.cfg.rcOk) :
    readBackThen t (s.during (.answer a :: rest) obs) k =
      k (storeRb a.data s).verdict ((storeRb a.data s).during rest (obs ++ [s.readBackRequest t a])) :=
  (callThen_during hr ..).trans (if_neg (not_not.mpr ha))

variable (v : Bool) (hsess : s.sess = .busOn ∨ s.sess = .active) (htx : s.txValid = true)
include hsess htx

/-- WRITE in a ready session with an encoded record: its `ChWrite` consumes the record, and if it succeeds the session
is in `Active` (R162, R164). -/
theorem writeBody_of_ready :
    writeBody v t (s.during (.answer a :: rest) obs) k =
      if a.code ≠ s.cfg.rcOk then
        k { status := .writeFailed, code := a.code } ((consumeTx s).during rest (obs ++ [s.writeRequest t a]))
      else if v then
        readBackThen t ((moveTo .active (consumeTx s)).during rest (obs ++ [s.writeRequest t a])) k
      else k {} ((moveTo .active (consumeTx s)).during rest (obs ++ [s.writeRequest t a])) := by
  have haccepted : (s.ready && s.txValid) = true := by rw [(ready_iff s).mpr hsess, htx, Bool.and_true]
  have hactive : enterActive ((consumeTx s).during rest (obs ++ [s.writeRequest t a])) =
      (moveTo .active (consumeTx s)).during rest (obs ++ [s.writeRequest t a]) := enterActive_of_ready hsess
  rw [← hactive]
  exact (if_pos haccepted).trans (callThen_during (s := consumeTx s) hr ..)

/-- WRITE whose `ChWrite` fails (R164, R165 (e)). -/
theorem writeBody_fails (ha : a.code ≠ s.cfg.rcOk) :
    writeBody v t (s.during (.answer a :: rest) obs) k =
      k { status := .writeFailed, code := a.code } ((consumeTx s).during rest (obs ++ [s.writeRequest t a])) :=
  (writeBody_of_ready hr t rest obs k v hsess htx).trans (if_pos ha)

/-- WRITE without read-back whose `ChWrite` succeeds (R164). -/
theorem writeBody_succeeds (ha : a.code = s.cfg.rcOk) :
    writeBody false t (s.during (.answer a :: rest) obs) k =
      k {} ((moveTo .active (consumeTx s)).during rest (obs ++ [s.writeRequest t a])) := by
  rw [writeBody_of_ready hr t rest obs k false hsess htx, if_neg (not_not.mpr ha)]
  exact if_neg Bool.false_ne_true

/-- WRITE.V whose `ChWrite` succeeds (R164). -/
theorem writeBody_readsBack (ha : a.code = s.cfg.rcOk) :
    writeBody true t (s.during (.answer a :: rest) obs) k =
      readBackThen t ((moveTo .active (consumeTx s)).during rest (obs ++ [s.writeRequest t a])) k := by
  rw [writeBody_of_ready hr t rest obs k true hsess htx, if_neg (not_not.mpr ha)]
  exact if_pos rfl

end

/-- Settles O36. -/
theorem writeWithoutReadBack : Obligations.WriteWithoutReadBack := by
  intro s tm a rest hsess htx hr hc ha
  rw [exec_write_during false tm hc, writeBody_succeeds hr tm rest [] endCommand hsess htx ha]
  exact congrArg _ (endCommand_during (s := moveTo .active (consumeTx s)) hr ..)

/-- Settles O37. -/
theorem failedWriteKeepsTheSession : Obligations.FailedWriteKeepsTheSession := by
  intro s v tm a rest hsess htx hr hc ha
  rw [exec_write_during v tm hc, writeBody_fails hr tm rest [] endCommand v hsess htx ha]
  exact congrArg _ (endCommand_during (s := consumeTx s) hr ..)

/-! ### The read-back -/

/-- The state a WRITE.V whose `ChWrite` succeeded leaves, but for its reply: `RB_BUF` is `rb`, the record is consumed,
the session is in `Active` (R162, R164). -/
def State.readBack (s : State) (rb : Memory) (rest : List PortEvent) : State :=
  { s with txValid := false, sess := .active, rbBuf := rb, collab := rest }.drawn

/-- The two requests of a WRITE.V begun in `s`, answered by `a` and `b` (R164). -/
def State.readBackRequests (s : State) (tm : Word32) (a b : Answer) : List Obs :=
  [s.writeRequest tm a, (moveTo .active (consumeTx s)).readBackRequest tm b]

/-- What a WRITE.V leaves of `s` after the observations `obs` and with the answers `rest` still to come (R164). -/
def State.keptByReadBack (s t : State) (rest : List PortEvent) (obs : List Obs) : Prop :=
  (∀ i, t.txBuf.read i = s.txBuf.read i) ∧ (∀ k, t.outRec.read k = s.outRec.read k) ∧ s.sameHandles t ∧
    s.sameInput t ∧ s.sameOperands t ∧ s.samePorts t ∧ t.collab = rest ∧ t.history = s.history ++ obs

theorem keptByReadBack_ended (s : State) (rb : Memory) (rest : List PortEvent) (r : Reply) (obs : List Obs) :
    s.keptByReadBack ((s.readBack rb rest).ended r obs) rest
      (obs ++ [.response (rspWord r.status r.phase r.verify .active r.term) r.code]) :=
  ⟨fun _ => rfl, fun _ => rfl, ⟨rfl, rfl, rfl, rfl⟩, ⟨fun _ => rfl, rfl, fun _ => rfl⟩, ⟨rfl, rfl, rfl, rfl⟩,
    ⟨rfl, rfl, rfl⟩, rfl, ended_history_obs ..⟩

section
variable {s : State} {tm : Word32} {a b : Answer} {rest : List PortEvent}
  (hsess : s.sess = .busOn ∨ s.sess = .active) (htx : s.txValid = true) (hr : s.resetLine = [])
  (hc : s.collab = .answer a :: .answer b :: rest) (ha : a.code = s.cfg.rcOk)
include hsess htx hr hc ha

/-- The whole state a WRITE.V whose read-back succeeds leaves (R164). -/
theorem exec_write_readBack_succeeds (hb : b.code = s.cfg.rcOk) :
    exec (.write true tm) s = .next
      ((s.readBack (Region.filled (b.data.take outAreaBytes) s.draws) rest).ended
        (s.readBack (Region.filled (b.data.take outAreaBytes) s.draws) rest).verdict (s.readBackRequests tm a b)) := by
  rw [exec_write_during true tm hc, writeBody_readsBack hr tm _ [] endCommand hsess htx ha]
  refine congrArg _ ?_
  calc readBackThen tm ((moveTo .active (consumeTx s)).during (.answer b :: rest) _) endCommand
    _ = endCommand _ ((storeRb b.data (moveTo .active (consumeTx s))).during rest _) :=
      readBackThen_succeeds (s := moveTo .active (consumeTx s)) hr tm rest _ endCommand hb
    _ = _ := endCommand_during (s := storeRb b.data (moveTo .active (consumeTx s))) hr ..

/-- The whole state a WRITE.V whose read-back fails leaves (R164). -/
theorem exec_write_readBack_fails (hb : b.code ≠ s.cfg.rcOk) :
    exec (.write true tm) s = .next
      ((s.readBack (Region.unspecified 8 s.draws) rest).ended { verify := .readBackFailed, rbCode := b.code }
        (s.readBackRequests tm a b)) := by
  rw [exec_write_during true tm hc, writeBody_readsBack hr tm _ [] endCommand hsess htx ha]
  refine congrArg _ ?_
  calc readBackThen tm ((moveTo .active (consumeTx s)).during (.answer b :: rest) _) endCommand
    _ = endCommand _ ((voidRb (noteRbCode b.code (moveTo .active (consumeTx s)))).during rest _) :=
      readBackThen_fails (s := moveTo .active (consumeTx s)) hr tm rest _ endCommand hb
    _ = _ := endCommand_during (s := voidRb (noteRbCode b.code (moveTo .active (consumeTx s)))) hr ..

end

/-- Settles O38: the verdict is about the bytes read back, which are what `RB_BUF` is left with. -/
theorem verifyComparesTheStateWords : Obligations.VerifyComparesTheStateWords := by
  intro s tm a b rest hsess htx hr hc ha hb
  refine ⟨_, (consumeTx s).begin.visible, (moveTo .active (consumeTx s)).begin.visible,
    exec_write_readBack_succeeds hsess htx hr hc ha hb, fun _ _ hi hx => Region.read_filled_take _ hi hx,
    ⟨fun hagree => ?agree, fun hdiffer => ?differ⟩, rfl, rfl, keptByReadBack_ended ..⟩
  case agree =>
    rw [verdict_isMatch ((verifyEqual_iff ..).mpr hagree)]
    exact ended_repliedWith ..
  case differ =>
    rw [verdict_mismatch (mt (verifyEqual_iff ..).mp hdiffer)]
    exact ended_repliedWith ..

/-- Settles O39. -/
theorem failedReadBackIsReported : Obligations.FailedReadBackIsReported := by
  intro s tm a b rest hsess htx hr hc ha hb
  exact ⟨_, (consumeTx s).begin.visible, (moveTo .active (consumeTx s)).begin.visible,
    exec_write_readBack_fails hsess htx hr hc ha hb, ended_repliedWith .., rfl, rfl, fun _ => rfl,
    keptByReadBack_ended ..⟩

/-! ### The encoded record is used once -/

/-- Under a cooperative environment a command that only responds takes one quiet entry of the reset input (log 8). -/
theorem endCommand_begin_of_cooperative {s : State} (r : Reply) (hs : s.cooperative = true) :
    endCommand r s.begin = { s with resetLine := s.resetLine.tail }.ended r [] := by
  cases hline : s.resetLine with
  | nil =>
    rw [endCommand_begin r hline, List.tail_nil, ← hline]
  | cons x rest =>
    obtain rfl : x = .quiet := ((cooperative_iff s).mp hs).2 x (hline ▸ List.mem_cons_self ..)
    have htake : takeReset s.begin = (.quiet, { s with resetLine := rest }.begin) := by
      simp only [takeReset, begin_resetLine, hline]
      rfl
    rw [endCommand, orReset, htake]
    exact respond_eq_ended ..

/-- The record is consumed, and the environment goes on answering without a reset. -/
structure RecordUsed (t : State) : Prop where
  txValid : t.txValid = false
  cooperative : t.cooperative = true

section
variable {s : State} (hs : RecordUsed s)
include hs

theorem endCommand_recordUsed (r : Reply) : RecordUsed (endCommand r s) :=
  orReset_of_cooperative hs.cooperative fun _ hcoop => ⟨hs.txValid, hcoop⟩

theorem enterActive_recordUsed : RecordUsed (enterActive s) := by
  unfold enterActive
  split
  next => exact ⟨hs.txValid, hs.cooperative⟩
  next => exact hs

/-- A call that is answered keeps the record consumed: only what comes after it has to be looked at. -/
theorem callThen_recordUsed {p : Primitive} {k : Answer → State → State}
    (hk : ∀ a u, RecordUsed u → RecordUsed (k a u)) : RecordUsed (callThen p s k) :=
  callThen_of_cooperative hs.cooperative fun a _ _ _ hcoop => hk a _ ⟨hs.txValid, hcoop⟩

theorem readBackThen_recordUsed (t : Word32) : RecordUsed (readBackThen t s endCommand) :=
  callThen_recordUsed hs fun a u hu => by
    split
    next => exact endCommand_recordUsed (s := voidRb (noteRbCode a.code u)) ⟨hu.txValid, hu.cooperative⟩ _
    next => exact endCommand_recordUsed (s := storeRb a.data u) ⟨hu.txValid, hu.cooperative⟩ _

end

/-- A WRITE that is accepted and ends leaves the record consumed, however it ends (R164, R165 (b)). -/
theorem writeBody_recordUsed {s : State} (hready : s.ready = true) (htx : s.txValid = true)
    (hs : s.cooperative = true) (v : Bool) (t : Word32) : RecordUsed (writeBody v t s endCommand) := by
  have hconsumed : RecordUsed (consumeTx s) := ⟨rfl, hs⟩
  rw [writeBody, hready, htx, if_pos (by rfl)]
  refine callThen_recordUsed hconsumed fun a u hu => ?_
  have hactive : RecordUsed (enterActive u) := enterActive_recordUsed hu
  split
  next => exact endCommand_recordUsed hu _
  next =>
    split
    next => exact readBackThen_recordUsed hactive t
    next => exact endCommand_recordUsed hactive _

/-- Settles O40: the second WRITE is refused by the `TX_VALID` the first one cleared. -/
theorem encodedRecordIsUsedOnce : Obligations.EncodedRecordIsUsedOnce := by
  intro s t v w tm tn hready htx hs h
  cases h
  have hused := writeBody_recordUsed (s := s.begin) hready htx hs v tm
  refine ⟨hused.txValid, ?_⟩
  rw [exec_write, writeBody_of_not_txValid (by exact hused.txValid)]
  exact congrArg _ (endCommand_begin_of_cooperative _ hused.cooperative)

/-! ### No transfer outside a ready session -/

section
variable {n : Nat} {s : State} (hs : s.seen Obs.isTransfer = n)
include hs

theorem observe_seen_of_not {o : Obs} (ho : o.isTransfer = false) : (s.observe o).seen Obs.isTransfer = n := by
  rw [seen_observe, ho]
  exact hs

theorem endCommand_noTransfer (r : Reply) : (endCommand r s).seen Obs.isTransfer = n :=
  orReset_elim (P := fun t => t.seen Obs.isTransfer = n)
    (fun _ => observe_seen_of_not hs (o := .response (rspWord r.status r.phase r.verify s.sess r.term) r.code) rfl)
    (fun _ => observe_seen_of_not hs (o := .reset) rfl)

/-- A call that is no transfer, however it ends: only what comes after its answer has to be looked at. -/
theorem callThen_noTransfer {p : Primitive} {k : Answer → State → State}
    (hp : ∀ a v, (Obs.call p a v).isTransfer = false)
    (hk : ∀ a u, u.seen Obs.isTransfer = n → (k a u).seen Obs.isTransfer = n) :
    (callThen p s k).seen Obs.isTransfer = n :=
  have hcall (a c l d) : ((s.portsAt c l d).observe (.call p a s.visible)).seen Obs.isTransfer = n :=
    observe_seen_of_not (s := s.portsAt c l d) hs (hp a _)
  callThen_elim (P := fun t => t.seen Obs.isTransfer = n)
    (before := fun _ => observe_seen_of_not hs (o := .reset) rfl)
    (during := fun c l d => observe_seen_of_not (hcall none c l d) (o := .reset) rfl)
    (silent := fun c l => hcall none c l _)
    (answered := fun a c l d => hk a _ (hcall (some a) c l d))

theorem releaseDrvThen_noTransfer {k : State → State}
    (hk : ∀ u, u.seen Obs.isTransfer = n → (k u).seen Obs.isTransfer = n) :
    (releaseDrvThen s k).seen Obs.isTransfer = n := by
  unfold releaseDrvThen
  split
  next => exact callThen_noTransfer hs (fun _ _ => rfl) fun _ u hu => hk (dropDrv u) hu
  next => exact hk s hs

theorem releaseThen_noTransfer {k : State → State}
    (hk : ∀ u, u.seen Obs.isTransfer = n → (k u).seen Obs.isTransfer = n) :
    (releaseThen s k).seen Obs.isTransfer = n := by
  unfold releaseThen
  split
  next =>
    exact callThen_noTransfer hs (fun _ _ => rfl) fun _ u hu => releaseDrvThen_noTransfer (s := dropCh u) hu hk
  next => exact releaseDrvThen_noTransfer hs hk

/-- A release that ends the command in `Closed`: CLOSE, a failed NEGOTIATE, the end of RUN (R144, R148, R188). -/
theorem release_noTransfer (r : Reply) :
    (releaseThen s fun u => endCommand r (moveTo .closed u)).seen Obs.isTransfer = n :=
  releaseThen_noTransfer hs fun u hu => endCommand_noTransfer (s := moveTo .closed u) hu r

theorem openChannel_noTransfer : (openChannel s endCommand).seen Obs.isTransfer = n :=
  callThen_noTransfer hs (fun _ _ => rfl) fun a u hu => by
    split
    next => exact callThen_noTransfer hu (fun _ _ => rfl) fun _ v hv => endCommand_noTransfer (s := dropDrv v) hv _
    next => exact endCommand_noTransfer (s := holdCh _ u) hu _

theorem openBody_noTransfer : (openBody s endCommand).seen Obs.isTransfer = n := by
  unfold openBody
  split
  next =>
    refine callThen_noTransfer hs (fun _ _ => rfl) fun a u hu => ?_
    split
    next => exact endCommand_noTransfer hu _
    next => exact openChannel_noTransfer (s := holdDrv _ u) hu
  next => exact endCommand_noTransfer hs _

theorem negotiateBody_noTransfer : (negotiateBody s endCommand).seen Obs.isTransfer = n := by
  unfold negotiateBody
  split
  next =>
    refine callThen_noTransfer hs (fun _ _ => rfl) fun a u hu => ?_
    split
    next => exact release_noTransfer hu _
    next =>
      refine callThen_noTransfer (s := moveTo .hostReady u) hu (fun _ _ => rfl) fun b v hv => ?_
      split
      next => exact release_noTransfer hv _
      next => exact endCommand_noTransfer (s := moveTo .busOn v) hv _
  next => exact endCommand_noTransfer hs _

theorem decodeBody_noTransfer (len : Nat) : (decodeBody len s).2.seen Obs.isTransfer = n := by
  obtain ⟨-, h⟩ | ⟨-, h⟩ | ⟨-, -, h⟩ := decodeBody_cases len s <;> rw [h] <;> exact hs

theorem encodeBody_noTransfer : (encodeBody s).2.seen Obs.isTransfer = n := by
  obtain ⟨-, h⟩ | ⟨-, h⟩ := encodeBody_cases s <;> rw [h] <;> exact hs

end

/-! In a session that is not ready the three commands that move data are refused (R160, R208). -/

section
variable {s : State} (h : s.ready = false) (k : Reply → State → State)
include h

theorem readBody_of_not_ready (t : Word32) : readBody t s k = k Reply.refused s :=
  if_neg (Bool.eq_false_iff.mp h)

theorem writeBody_of_not_ready (v : Bool) (t : Word32) : writeBody v t s k = k Reply.refused s := by
  rw [writeBody, h, Bool.false_and, if_neg Bool.false_ne_true]

theorem tickBody_of_not_ready (t : Word32) : tickBody t s k = k Reply.refused s :=
  if_neg (Bool.eq_false_iff.mp h)

end

/-- Settles O41: READ, WRITE and TICK are refused, RUN only releases the handles, and the other commands have no
transfer to issue. -/
theorem noTransferOutsideReadySession : Obligations.NoTransferOutsideReadySession := by
  intro i s t hready h
  have hb : s.begin.seen Obs.isTransfer = s.seen Obs.isTransfer := rfl
  cases i with
  | decode len => cases h; exact endCommand_noTransfer (decodeBody_noTransfer hb _) _
  | encode => cases h; exact endCommand_noTransfer (encodeBody_noTransfer hb) _
  | openCh => cases h; exact openBody_noTransfer hb
  | negotiate => cases h; exact negotiateBody_noTransfer hb
  | close => cases h; exact release_noTransfer hb _
  | read tm =>
    cases h
    rw [readBody_of_not_ready (s := s.begin) hready]
    exact endCommand_noTransfer hb _
  | write v tm =>
    cases h
    rw [writeBody_of_not_ready (s := s.begin) hready]
    exact endCommand_noTransfer hb _
  | tick tm =>
    cases h
    rw [tickBody_of_not_ready (s := s.begin) hready]
    exact endCommand_noTransfer hb _
  | run tm =>
    cases h
    rw [if_neg (Bool.eq_false_iff.mp hready)]
    exact release_noTransfer hb _

end Sys2Proof.Machine

/-! SUPPORT. The family of `43_exchange_sequencer.md`: a tick that is answered from the ports, in the order of its steps
(R184, R185), what every tick goes through whatever its environment does (R182, R186), and RUN (R188 to R191). -/

namespace Sys2Proof.Machine

/-! ### The points of a tick

With no reset, inside a command as `State.during` describes it. -/

section
variable {s : State} (hr : s.resetLine = []) (c : List PortEvent) (obs : List Obs)

theorem observe_during (o : Obs) : (s.during c obs).observe o = s.during c (obs ++ [o]) := by
  simp only [State.during, State.observe, List.append_assoc]

include hr

theorem emitThen_during (e : Event) (k : State → State) :
    emitThen e (s.during c obs) k = k (s.during c (obs ++ [.event e])) :=
  (emitThen_quiet (by exact hr)).trans (congrArg k (observe_during ..))

theorem tickWait_during (vr : Verify) (rbc : Word32) (k : Reply → State → State) :
    tickWait vr rbc (s.during c obs) k =
      k { verify := vr, rbCode := rbc } (s.during c (obs ++ [.wait s.cfg.pacingMs])) :=
  (waitThen_quiet (by exact hr)).trans (congrArg (k _) (observe_during ..))

theorem pollThen_during {ctrl : BitVec 2} {cs : List (BitVec 2)} (hport : s.ctrlPort = ctrl :: cs)
    (k : Signal → State → State) :
    pollThen (s.during c obs) k =
      k (signalOf ctrl) ((s.ctrlAt cs s.draws).during c (obs ++ [.poll ctrl])) := by
  rw [pollThen_quiet (by exact hr), pollControl_cons (s := s.during c obs) hport]
  exact congrArg (k _) (observe_during (s := s.ctrlAt cs s.draws) ..)

end

/-- What a control value stands for (R106). -/
theorem signalOf_cases : ∀ ctrl : BitVec 2,
    (ctrl = 1#2 ∧ signalOf ctrl = .writeNow) ∨ (ctrl = 2#2 ∧ signalOf ctrl = .terminate) ∨
      (ctrl ≠ 1#2 ∧ ctrl ≠ 2#2 ∧ signalOf ctrl = .cont) := by
  decide

theorem signalOf_cont {ctrl : BitVec 2} (h1 : ctrl ≠ 1#2) (h2 : ctrl ≠ 2#2) : signalOf ctrl = .cont := by
  obtain ⟨h, -⟩ | ⟨h, -⟩ | ⟨-, -, h⟩ := signalOf_cases ctrl
  · exact absurd h h1
  · exact absurd h h2
  · exact h

/-! ### Step 1: read, and decode or warn -/

/-- What step 1 of a tick makes of `s` with a successful read of the bytes `d` (R161, R162, R185). -/
def State.received (s : State) (d : List Byte) : State :=
  storeIn ((List.range recWords).map (Region.word s.cfg.byteOrder (storeRx d (voidIn s)).rxArea))
    (moveTo .active (storeRx d (voidIn s)))

/-- What step 1 of a tick makes of `s` when its read is answered by `a`: whatever the answer, only the input side and
`STATE` (R161, R185). -/
def State.afterRead (s : State) (a : Answer) : State :=
  let t := if a.code = s.cfg.rcOk then s.received a.data else voidRx (voidIn s)
  { s with sess := t.sess, inRec := t.inRec, inValid := t.inValid, rxArea := t.rxArea, draws := t.draws }

section
variable {s : State} {a : Answer}

theorem afterRead_of_ok (ha : a.code = s.cfg.rcOk) : s.afterRead a = s.received a.data := by
  rw [State.afterRead, if_pos ha]
  rfl

theorem afterRead_of_failed (ha : a.code ≠ s.cfg.rcOk) : s.afterRead a = voidRx (voidIn s) := by
  rw [State.afterRead, if_neg ha]
  rfl

theorem readReport_of_ok (ha : a.code = s.cfg.rcOk) : s.readReport a = .event (.consumer s.inWords) := by
  rw [State.readReport, if_pos ha]

theorem readReport_of_failed (ha : a.code ≠ s.cfg.rcOk) :
    s.readReport a = .event (.warn .readFailed .none a.code) := by
  rw [State.readReport, if_neg ha]

theorem afterRead_sess (s : State) (a : Answer) :
    (s.afterRead a).sess = if a.code = s.cfg.rcOk then .active else s.sess := by
  by_cases ha : a.code = s.cfg.rcOk
  · rw [afterRead_of_ok ha, if_pos ha]
    rfl
  · rw [afterRead_of_failed ha, if_neg ha]
    rfl

theorem afterRead_inValid (s : State) (a : Answer) :
    (s.afterRead a).inValid = decide (a.code = s.cfg.rcOk) := by
  by_cases ha : a.code = s.cfg.rcOk
  · rw [afterRead_of_ok ha, decide_eq_true ha]
    rfl
  · rw [afterRead_of_failed ha, decide_eq_false ha]
    rfl

theorem afterRead_ready (hsess : s.sess = .busOn ∨ s.sess = .active) (a : Answer) :
    (s.afterRead a).sess = .busOn ∨ (s.afterRead a).sess = .active := by
  rw [afterRead_sess]
  split
  next => exact .inr rfl
  next => exact hsess

theorem tickDecode_succeeds (hr : s.resetLine = []) (c : List PortEvent) (obs : List Obs) (k : State → State) :
    tickDecode {} (s.during c obs) k =
      let t := storeIn ((List.range recWords).map (Region.word s.cfg.byteOrder s.rxArea)) s
      k (t.during c (obs ++ [.event (.consumer t.inWords)])) := by
  rw [tickDecode, if_pos rfl, decodeBody_slot _ (by decide) le_rfl]
  exact emitThen_during (s := storeIn _ s) hr ..

theorem tickDecode_fails (hr : s.resetLine = []) (c : List PortEvent) (obs : List Obs) (code : Word32)
    (k : State → State) :
    tickDecode { status := .readFailed, code := code } (s.during c obs) k =
      k (s.during c (obs ++ [.event (.warn .readFailed .none code)])) := by
  rw [tickDecode, if_neg (fun h => nomatch h)]
  exact emitThen_during hr ..

/-- What a tick has observed after its step 1 (R182, R185). -/
def State.readObs (s : State) (t : Word32) (a : Answer) : List Obs :=
  [s.readRequest t a, (s.afterRead a).readReport a]

/-- A tick in a ready session, up to its poll (R185). -/
theorem tickBody_during (hr : s.resetLine = []) (hsess : s.sess = .busOn ∨ s.sess = .active) (t : Word32) (a : Answer)
    (rest : List PortEvent) (k : Reply → State → State) :
    tickBody t (s.during (.answer a :: rest) []) k =
      tickPoll t ((s.afterRead a).during rest (s.readObs t a)) k := by
  have hready : (s.during (.answer a :: rest) []).ready = true := (ready_iff s).mpr hsess
  rw [tickBody, if_pos hready, State.readObs]
  by_cases ha : a.code = s.cfg.rcOk
  · rw [afterRead_of_ok ha, readReport_of_ok (by exact ha), readBody_succeeds hr hsess t rest [] _ ha]
    exact tickDecode_succeeds (s := moveTo .active (storeRx a.data (voidIn s))) hr ..
  · rw [afterRead_of_failed ha, readReport_of_failed (by exact ha), readBody_fails hr hsess t rest [] _ ha]
    exact tickDecode_fails (s := voidRx (voidIn s)) hr ..

end

/-! ### Step 2 without a write, and step 3 -/

/-- What a tick begun in `s` has made of it once it has polled and the samples `cs` are left (R183, R185). -/
def State.afterPoll (s : State) (a : Answer) (cs : List (BitVec 2)) : State :=
  (s.afterRead a).ctrlAt cs (s.afterRead a).draws

/-- The observations of a tick begun in `s` up to its poll (R185). -/
def State.pollObs (s : State) (t : Word32) (a : Answer) (ctrl : BitVec 2) : List Obs :=
  s.readObs t a ++ [.poll ctrl]

theorem exec_tick (t : Word32) {s : State} {c : List PortEvent} (hc : s.collab = c) :
    exec (.tick t) s = .next (tickBody t (s.during c []) endCommand) := by
  rw [← begin_eq_during hc]
  rfl

section
variable {s : State} (hr : s.resetLine = []) (hsess : s.sess = .busOn ∨ s.sess = .active) (t : Word32) (a : Answer)
  (rest : List PortEvent) {cs : List (BitVec 2)} (k : Reply → State → State)
include hr hsess

/-- A tick that goes on as it polls `Continue` (R185). -/
theorem tickBody_continues {ctrl : BitVec 2} (hport : s.ctrlPort = ctrl :: cs) (h1 : ctrl ≠ 1#2) (h2 : ctrl ≠ 2#2) :
    tickBody t (s.during (.answer a :: rest) []) k =
      k {} ((s.afterPoll a cs).during rest (s.pollObs t a ctrl ++ [.wait s.cfg.pacingMs])) := by
  rw [tickBody_during hr hsess, tickPoll, pollThen_during (s := s.afterRead a) hr _ _ hport, signalOf_cont h1 h2]
  exact tickWait_during (s := s.afterPoll a cs) hr ..

/-- A tick that ends as it polls `Terminate` (R185, R186 (g)). -/
theorem tickBody_terminates (hport : s.ctrlPort = 2#2 :: cs) :
    tickBody t (s.during (.answer a :: rest) []) k =
      k { term := true } ((s.afterPoll a cs).during rest (s.pollObs t a 2#2)) := by
  rw [tickBody_during hr hsess, tickPoll, pollThen_during (s := s.afterRead a) hr _ _ hport]
  rfl

/-- A tick that polls `WriteNow` (R185). -/
theorem tickBody_writes (hport : s.ctrlPort = 1#2 :: cs) :
    tickBody t (s.during (.answer a :: rest) []) k =
      tickWrite t ((s.afterPoll a cs).during rest (s.pollObs t a 1#2)) k := by
  rw [tickBody_during hr hsess, tickPoll, pollThen_during (s := s.afterRead a) hr _ _ hport]
  rfl

end

/-! What is known of step 1 by how its read ended. -/

section
variable {s : State} {a : Answer}

theorem afterPoll_of_ok (ha : a.code = s.cfg.rcOk) (cs : List (BitVec 2)) :
    s.afterPoll a cs = (s.received a.data).ctrlAt cs (s.received a.data).draws := by
  rw [State.afterPoll, afterRead_of_ok ha]

theorem pollObs_of_ok (ha : a.code = s.cfg.rcOk) (t : Word32) (ctrl : BitVec 2) :
    s.pollObs t a ctrl =
      [s.readRequest t a, .event (.consumer (s.received a.data).inWords), .poll ctrl] := by
  rw [State.pollObs, State.readObs, readReport_of_ok (by exact ha), afterRead_of_ok ha]
  rfl

theorem pollObs_of_failed (ha : a.code ≠ s.cfg.rcOk) (t : Word32) (ctrl : BitVec 2) :
    s.pollObs t a ctrl = [s.readRequest t a, .event (.warn .readFailed .none a.code), .poll ctrl] := by
  rw [State.pollObs, State.readObs, readReport_of_failed (by exact ha)]
  rfl

end

/-- A record received is the words of `RX_AREA`, and there the bytes read lie (R121, R161). -/
theorem received_reads (s : State) (d : List Byte) :
    (∀ i b, i < inAreaBytes → d[i]? = some b → (s.received d).rxArea.read i = b) ∧
      ∀ k, k < recWords → (s.received d).inRec.read k = Region.word s.cfg.byteOrder (s.received d).rxArea k :=
  ⟨fun _ _ hi hb => Region.read_filled_take _ hi hb, fun _ hk => Region.read_filled_map_range _ _ hk⟩

/-- Settles O42. -/
theorem tickReadsDecodesAndHandsOver : Obligations.TickReadsDecodesAndHandsOver := by
  intro s tm a rest c cs hsess hr hc ha hport h1 h2
  have hexec : exec (.tick tm) s = .next (State.ended { s.afterPoll a cs with collab := rest } {}
      (s.pollObs tm a c ++ [.wait s.cfg.pacingMs])) := by
    rw [exec_tick tm hc, tickBody_continues hr hsess tm a rest endCommand hport h1 h2]
    exact congrArg _ (endCommand_during (s := s.afterPoll a cs) hr ..)
  rw [afterPoll_of_ok ha, pollObs_of_ok ha] at hexec
  obtain ⟨hrx, hin⟩ := received_reads s a.data
  exact ⟨_, (voidIn s).begin.visible, hexec, ended_repliedWith .., rfl, rfl, hrx, hin, ⟨rfl, rfl, rfl, rfl⟩,
    ⟨fun _ => rfl, fun _ => rfl, rfl, fun _ => rfl⟩, ⟨rfl, rfl, rfl, rfl⟩, rfl, rfl, rfl, rfl, ended_history_obs ..⟩

/-- Settles O43. -/
theorem tickWarnsAndTerminates : Obligations.TickWarnsAndTerminates := by
  intro s tm a rest cs hsess hr hc ha hport
  have hexec : exec (.tick tm) s = .next (State.ended { s.afterPoll a cs with collab := rest } { term := true }
      (s.pollObs tm a 2#2)) := by
    rw [exec_tick tm hc, tickBody_terminates hr hsess tm a rest endCommand hport]
    exact congrArg _ (endCommand_during (s := s.afterPoll a cs) hr ..)
  rw [pollObs_of_failed ha] at hexec
  have hstays : (s.afterPoll a cs).sess = s.sess := (afterRead_sess s a).trans (if_neg ha)
  have hvalid : (s.afterPoll a cs).inValid = false := (afterRead_inValid s a).trans (decide_eq_false ha)
  have hrx (i) : (s.afterPoll a cs).rxArea.specified i = false := by
    rw [State.afterPoll, afterRead_of_failed ha]
    rfl
  refine ⟨_, (voidIn s).begin.visible, hexec, ended_repliedWith .., hstays, hvalid, hrx, ⟨rfl, rfl, rfl, rfl⟩,
    ⟨fun _ => rfl, fun _ => rfl, rfl, fun _ => rfl⟩, ⟨rfl, rfl, rfl, rfl⟩, rfl, rfl, rfl, rfl, ?_⟩
  rw [ended_history_obs, ← hstays]
  rfl

/-! ### Step 2 with a write -/

/-- `OUT_REC` loaded from the payload port, whose sample is taken (R184). -/
def State.loaded (s : State) : State :=
  s.payloadAt (Region.filled ((s.payloadPort.headD []).take s.cfg.outNamedWords) s.draws) s.payloadPort.tail

theorem takePayload_eq (s : State) :
    takePayload s = (s.payloadPort.headD [], { s with payloadPort := s.payloadPort.tail }) := by
  unfold takePayload
  split
  next hport => rw [hport, List.headD_nil, List.tail_nil, ← hport]
  next hport =>
    rw [hport]
    rfl

theorem loadPayload_eq_loaded (s : State) : loadPayload s = s.loaded := by
  rw [loadPayload, takePayload_eq]
  rfl

/-- `OUT_REC` loaded from the payload port and encoded (R126, R184). -/
def State.encoded (s : State) : State :=
  storeTx ((List.range recBytes).map (encodedByte s.cfg s.loaded.outRec)) s.loaded

/-- A payload word in `OUT_REC` and in `TX_BUF` (R125, R184). -/
theorem encoded_reads {s : State} {ws : List Word} {ps : List (List Word)} (hport : s.payloadPort = ws :: ps)
    (hfits : s.cfg.outNamedBytes ≤ recBytes) {k : Nat} {x : Word} (hk : k < s.cfg.outNamedWords)
    (hx : ws[k]? = some x) :
    s.encoded.outRec.read k = x ∧ s.encoded.txBuf.read (2 * k) = byteOf s.cfg.byteOrder x false ∧
      s.encoded.txBuf.read (2 * k + 1) = byteOf s.cfg.byteOrder x true := by
  have hword : s.loaded.outRec.read k = x := by
    rw [State.loaded, hport]
    exact Region.read_filled_take _ hk hx
  refine ⟨hword, ?_, ?_⟩
  · exact hword ▸ encodedBuffer_read_named s.loaded.draws hfits false hk
  · exact hword ▸ encodedBuffer_read_named s.loaded.draws hfits true hk

theorem encodeBody_overflows {s : State} (h : recBytes < s.cfg.outNamedBytes) :
    encodeBody s = ({ status := .bufferOverflow }, consumeTx s) := by
  simp only [encodeBody, encodeRecord_overflow h]

/-- The state in which a tick on `WriteNow` reads back what it has written of `s` (R162, R164). -/
def State.written (s : State) : State := moveTo .active (consumeTx s.encoded)

/-- What a tick does with the reply of its WRITE (R185). -/
def tickReport (k : Reply → State → State) (w : Reply) (s : State) : State :=
  if w.status ≠ .ok then emitThen (.warn .writeFailed .none w.code) s fun s => tickWait .notDone 0#32 s k
  else emitThen (.verify w.verify w.rbCode) s fun s => tickWait w.verify w.rbCode s k

/-- A tick whose record fits runs a WRITE of it (R185). -/
theorem tickWrite_fits (t : Word32) {s : State} (c : List PortEvent) (obs : List Obs) (k : Reply → State → State)
    (hfits : s.cfg.outNamedBytes ≤ recBytes) :
    tickWrite t (s.during c obs) k = writeBody true t (s.encoded.during c obs) (tickReport k) := by
  rw [tickWrite, loadPayload_eq_loaded, encodeBody_fits (s := (s.during c obs).loaded) hfits]
  exact if_neg (not_not.mpr rfl)

section
variable {s : State} (hr : s.resetLine = []) (t : Word32) (obs : List Obs) (k : Reply → State → State)
include hr

/-- The end of every tick on `WriteNow`: an event, then the wait (R185). -/
theorem reportThenWait_during (e : Event) (vr : Verify) (rbc : Word32) (c : List PortEvent) :
    (emitThen e (s.during c obs) fun u => tickWait vr rbc u k) =
      k { verify := vr, rbCode := rbc } (s.during c (obs ++ [.event e, .wait s.cfg.pacingMs])) := by
  rw [emitThen_during hr, tickWait_during hr, List.append_assoc]
  rfl

/-- A tick whose record does not fit (R185, R186 (d)). -/
theorem tickWrite_overflows (c : List PortEvent) (h : recBytes < s.cfg.outNamedBytes) :
    tickWrite t (s.during c obs) k =
      k {} ((consumeTx s.loaded).during c
        (obs ++ [.event (.warn .bufferOverflow .none 0#32), .wait s.cfg.pacingMs])) := by
  rw [tickWrite, loadPayload_eq_loaded, encodeBody_overflows (s := (s.during c obs).loaded) h]
  exact (if_pos (fun h => nomatch h)).trans (reportThenWait_during (s := consumeTx s.loaded) hr ..)

variable (rest : List PortEvent) (hsess : s.sess = .busOn ∨ s.sess = .active)
  (hfits : s.cfg.outNamedBytes ≤ recBytes) {b : Answer}
include hsess hfits

/-- A tick whose write fails (R185, R186 (c)). -/
theorem tickWrite_fails (hb : b.code ≠ s.cfg.rcOk) :
    tickWrite t (s.during (.answer b :: rest) obs) k =
      k {} ((consumeTx s.encoded).during rest (obs ++ [s.encoded.writeRequest t b] ++
        [.event (.warn .writeFailed .none b.code), .wait s.cfg.pacingMs])) := by
  rw [tickWrite_fits t _ _ _ hfits, writeBody_fails (s := s.encoded) hr t rest obs _ true hsess rfl hb]
  exact (if_pos (fun h => nomatch h)).trans (reportThenWait_during (s := consumeTx s.encoded) hr ..)

variable {d : Answer} (hb : b.code = s.cfg.rcOk)
include hb

/-- A tick whose read-back fails (R185, R186 (c)). -/
theorem tickWrite_readBackFails (hd : d.code ≠ s.cfg.rcOk) :
    tickWrite t (s.during (.answer b :: .answer d :: rest) obs) k =
      k { verify := .readBackFailed, rbCode := d.code } ((voidRb (noteRbCode d.code s.written)).during rest
        (obs ++ [s.encoded.writeRequest t b] ++ [s.written.readBackRequest t d] ++
          [.event (.verify .readBackFailed d.code), .wait s.cfg.pacingMs])) := by
  rw [tickWrite_fits t _ _ _ hfits, writeBody_readsBack (s := s.encoded) hr t _ obs _ hsess rfl hb]
  calc readBackThen t (s.written.during _ _) (tickReport k)
    _ = tickReport k _ ((voidRb (noteRbCode d.code s.written)).during rest _) :=
      readBackThen_fails (s := s.written) hr t rest _ _ hd
    _ = _ := (if_neg (not_not.mpr rfl)).trans
      (reportThenWait_during (s := voidRb (noteRbCode d.code s.written)) hr ..)

/-- A tick whose write and read-back succeed (R185, R186 (a)). -/
theorem tickWrite_verifies (hd : d.code = s.cfg.rcOk) :
    tickWrite t (s.during (.answer b :: .answer d :: rest) obs) k =
      k (storeRb d.data s.written).verdict ((storeRb d.data s.written).during rest
        (obs ++ [s.encoded.writeRequest t b] ++ [s.written.readBackRequest t d] ++
          [.event (.verify (storeRb d.data s.written).verdict.verify 0#32), .wait s.cfg.pacingMs])) := by
  rw [tickWrite_fits t _ _ _ hfits, writeBody_readsBack (s := s.encoded) hr t _ obs _ hsess rfl hb]
  calc readBackThen t (s.written.during _ _) (tickReport k)
    _ = tickReport k _ ((storeRb d.data s.written).during rest _) :=
      readBackThen_succeeds (s := s.written) hr t rest _ _ hd
    _ = _ := (if_neg (not_not.mpr rfl)).trans
      (reportThenWait_during (s := storeRb d.data s.written) hr ..)

end

/-! The whole state a tick on `WriteNow` leaves, by how its write ended (R185). -/

section
variable {s : State} {tm : Word32} {a b d : Answer} {rest : List PortEvent} {cs : List (BitVec 2)}
  (hsess : s.sess = .busOn ∨ s.sess = .active) (hr : s.resetLine = []) (hport : s.ctrlPort = 1#2 :: cs)
include hsess hr hport

theorem exec_tick_writes {c : List PortEvent} (hc : s.collab = .answer a :: c) :
    exec (.tick tm) s = .next (tickWrite tm ((s.afterPoll a cs).during c (s.pollObs tm a 1#2)) endCommand) := by
  rw [exec_tick tm hc, tickBody_writes hr hsess tm a _ endCommand hport]

theorem exec_tick_overflows (hc : s.collab = .answer a :: rest) (h : recBytes < s.cfg.outNamedBytes) :
    exec (.tick tm) s = .next (State.ended { consumeTx (s.afterPoll a cs).loaded with collab := rest } {}
      (s.pollObs tm a 1#2 ++ [.event (.warn .bufferOverflow .none 0#32), .wait s.cfg.pacingMs])) := by
  rw [exec_tick_writes hsess hr hport hc, tickWrite_overflows (s := s.afterPoll a cs) hr tm _ _ _ h]
  exact congrArg _ (endCommand_during (s := consumeTx (s.afterPoll a cs).loaded) hr ..)

variable (hfits : s.cfg.outNamedBytes ≤ recBytes)
include hfits

theorem exec_tick_writeFails (hc : s.collab = .answer a :: .answer b :: rest) (hb : b.code ≠ s.cfg.rcOk) :
    exec (.tick tm) s = .next (State.ended { consumeTx (s.afterPoll a cs).encoded with collab := rest } {}
      (s.pollObs tm a 1#2 ++ [(s.afterPoll a cs).encoded.writeRequest tm b] ++
        [.event (.warn .writeFailed .none b.code), .wait s.cfg.pacingMs])) := by
  rw [exec_tick_writes hsess hr hport hc,
    tickWrite_fails (s := s.afterPoll a cs) hr tm _ _ rest (afterRead_ready hsess a) hfits hb]
  exact congrArg _ (endCommand_during (s := consumeTx (s.afterPoll a cs).encoded) hr ..)

variable (hc : s.collab = .answer a :: .answer b :: .answer d :: rest) (hb : b.code = s.cfg.rcOk)
include hc hb

theorem exec_tick_readBackFails (hd : d.code ≠ s.cfg.rcOk) :
    exec (.tick tm) s = .next (State.ended
      { voidRb (noteRbCode d.code (s.afterPoll a cs).written) with collab := rest }
      { verify := .readBackFailed, rbCode := d.code }
      (s.pollObs tm a 1#2 ++ [(s.afterPoll a cs).encoded.writeRequest tm b] ++
        [(s.afterPoll a cs).written.readBackRequest tm d] ++
        [.event (.verify .readBackFailed d.code), .wait s.cfg.pacingMs])) := by
  rw [exec_tick_writes hsess hr hport hc,
    tickWrite_readBackFails (s := s.afterPoll a cs) hr tm _ _ rest (afterRead_ready hsess a) hfits hb hd]
  exact congrArg _ (endCommand_during (s := voidRb (noteRbCode d.code (s.afterPoll a cs).written)) hr ..)

theorem exec_tick_verifies (hd : d.code = s.cfg.rcOk) :
    exec (.tick tm) s = .next (State.ended
      { storeRb d.data (s.afterPoll a cs).written with collab := rest }
      (storeRb d.data (s.afterPoll a cs).written).verdict
      (s.pollObs tm a 1#2 ++ [(s.afterPoll a cs).encoded.writeRequest tm b] ++
        [(s.afterPoll a cs).written.readBackRequest tm d] ++
        [.event (.verify (storeRb d.data (s.afterPoll a cs).written).verdict.verify 0#32),
          .wait s.cfg.pacingMs])) := by
  rw [exec_tick_writes hsess hr hport hc,
    tickWrite_verifies (s := s.afterPoll a cs) hr tm _ _ rest (afterRead_ready hsess a) hfits hb hd]
  exact congrArg _ (endCommand_during (s := storeRb d.data (s.afterPoll a cs).written) hr ..)

end

/-- Settles O44. -/
theorem tickWritesThePayload : Obligations.TickWritesThePayload := by
  intro s tm a b d rest cs ws ps hsess hr hc hb hd hport hpayload hfits
  have hreads (k x) (hk : k < s.cfg.outNamedWords) (hx : ws[k]? = some x) :=
    encoded_reads (s := s.afterPoll a cs) hpayload hfits hk hx
  exact ⟨_, (voidIn s).begin.visible, (consumeTx (s.afterPoll a cs).encoded).begin.visible,
    (s.afterPoll a cs).written.begin.visible, exec_tick_verifies hsess hr hport hfits hc hb hd, hreads,
    ended_repliedWith .., rfl, rfl, afterRead_inValid s a, ⟨rfl, rfl, rfl, rfl⟩, ⟨rfl, rfl, rfl, rfl⟩, rfl, rfl,
    congrArg List.tail hpayload, rfl, ended_history_obs ..⟩

/-! ### What every tick goes through

The order of a tick's steps is followed once, for any property of it that each of its points passes on. -/

/-- Between `s` and `t` nothing was taken from the ports and nothing observed. -/
structure SameTraffic (s t : State) : Prop where
  collab : t.collab = s.collab
  resetLine : t.resetLine = s.resetLine
  ctrlPort : t.ctrlPort = s.ctrlPort
  history : t.history = s.history

theorem enterActive_sameTraffic (s : State) : SameTraffic s (enterActive s) := by
  unfold enterActive
  split
  next => exact ⟨rfl, rfl, rfl, rfl⟩
  next => exact ⟨rfl, rfl, rfl, rfl⟩

/-- `r` is a reply of a tick that has polled `ctrl`: `Ok`, and `TERM` exactly if the poll said `Terminate` (R185,
R186 (g)). -/
structure TickReply (ctrl : BitVec 2) (r : Reply) : Prop where
  status : r.status = .ok
  phase : r.phase = .none
  code : r.code = 0#32
  term : r.term = true ↔ ctrl = 2#2

/-- `Q n cs` holds of a tick that has polled `cs` and issues at most `n` further requests, and each point of the tick
passes it on; `P` holds wherever a point cuts the tick off. Then `h.through_f` says: if `P` holds of what comes after
`f`, it holds of `f` and what comes after it. (`Carried` says this of what every update of a command keeps, which is
neither a number of requests nor the sample a poll took.) -/
structure PassedOn (Q : Nat → List (BitVec 2) → State → Prop) (P : State → Prop) : Prop where
  keep {n cs s t} : DataUpdate s t → SameTraffic s t → Q n cs s → Q n cs t
  spare {n cs s} : Q (n + 1) cs s → Q n cs s
  call {n cs s p} {k : Answer → State → State} : (∀ a v, (Obs.call p a v).isTransfer = true) → Q (n + 1) cs s →
    (∀ a u, Q n cs u → P (k a u)) → P (callThen p s k)
  emit {n cs s e} {k : State → State} : Q n cs s → (∀ u, Q n cs u → P (k u)) → P (emitThen e s k)
  poll {n s} {k : Signal → State → State} : Q n [] s → (∀ ctrl u, Q n [ctrl] u → P (k (signalOf ctrl) u)) →
    P (pollThen s k)
  wait {n cs s} {k : State → State} : Q n cs s → (∀ u, Q n cs u → P (k u)) → P (waitThen s k)

namespace PassedOn

section
variable {Q : Nat → List (BitVec 2) → State → Prop} {P : State → Prop} (h : PassedOn Q P) {n : Nat}
  {cs : List (BitVec 2)} {s : State}
include h

theorem keep_enterActive (hs : Q n cs s) : Q n cs (enterActive s) :=
  h.keep .enterActive (enterActive_sameTraffic s) hs

theorem keep_decodeBody (len : Nat) (hs : Q n cs s) : Q n cs (decodeBody len s).2 := by
  obtain ⟨-, hd⟩ | ⟨-, hd⟩ | ⟨-, -, hd⟩ := decodeBody_cases len s <;> rw [hd]
  · exact hs
  · exact h.keep .voidIn ⟨rfl, rfl, rfl, rfl⟩ hs
  · exact h.keep (.storeIn _) ⟨rfl, rfl, rfl, rfl⟩ hs

theorem keep_encodeBody (hs : Q n cs s) : Q n cs (encodeBody s).2 := by
  obtain ⟨-, he⟩ | ⟨-, he⟩ := encodeBody_cases s <;> rw [he]
  · exact h.keep .consumeTx ⟨rfl, rfl, rfl, rfl⟩ hs
  · exact h.keep (.storeTx _) ⟨rfl, rfl, rfl, rfl⟩ hs

theorem keep_loadPayload (hs : Q n cs s) : Q n cs (loadPayload s) :=
  loadPayload_eq_loaded s ▸ h.keep (.payloadAt _ _) ⟨rfl, rfl, rfl, rfl⟩ hs

theorem through_readBody (t : Word32) {k : Reply → State → State} (hs : Q (n + 1) cs s)
    (hk : ∀ r u, Q n cs u → P (k r u)) : P (readBody t s k) := by
  unfold readBody
  split
  next =>
    refine h.call (fun _ _ => rfl) (h.keep .voidIn ⟨rfl, rfl, rfl, rfl⟩ hs) fun a u hu => ?_
    split
    next => exact hk _ _ (h.keep .voidRx ⟨rfl, rfl, rfl, rfl⟩ hu)
    next => exact hk _ _ (h.keep_enterActive (h.keep (.storeRx _) ⟨rfl, rfl, rfl, rfl⟩ hu))
  next => exact hk _ _ (h.spare hs)

theorem through_readBackThen (t : Word32) {k : Reply → State → State} (hs : Q (n + 1) cs s)
    (hk : ∀ r u, Q n cs u → P (k r u)) : P (readBackThen t s k) := by
  refine h.call (fun _ _ => rfl) hs fun a u hu => ?_
  split
  next =>
    have hnoted : Q n cs (noteRbCode a.code u) := h.keep (.noteRbCode _) ⟨rfl, rfl, rfl, rfl⟩ hu
    exact hk _ _ (h.keep .voidRb ⟨rfl, rfl, rfl, rfl⟩ hnoted)
  next => exact hk _ _ (h.keep (.storeRb _) ⟨rfl, rfl, rfl, rfl⟩ hu)

theorem through_writeBody (v : Bool) (t : Word32) {k : Reply → State → State} (hs : Q (n + 2) cs s)
    (hk : ∀ r u, Q n cs u → P (k r u)) : P (writeBody v t s k) := by
  unfold writeBody
  split
  next =>
    refine h.call (fun _ _ => rfl) (h.keep .consumeTx ⟨rfl, rfl, rfl, rfl⟩ hs) fun a u hu => ?_
    have hactive : Q (n + 1) cs (enterActive u) := h.keep_enterActive hu
    split
    next => exact hk _ _ (h.spare hu)
    next =>
      split
      next => exact h.through_readBackThen t hactive hk
      next => exact hk _ _ (h.spare hactive)
  next => exact hk _ _ (h.spare (h.spare hs))

theorem through_tickDecode (r : Reply) {k : State → State} (hs : Q n cs s) (hk : ∀ u, Q n cs u → P (k u)) :
    P (tickDecode r s k) := by
  have hd : Q n cs (decodeBody inAreaBytes s).2 := h.keep_decodeBody _ hs
  unfold tickDecode
  split
  next =>
    dsimp only
    split
    next => exact h.emit hd hk
    next => exact h.emit hd hk
  next => exact h.emit hs hk

variable {ctrl : BitVec 2} {k : Reply → State → State} (hk : ∀ r ctrl u, TickReply ctrl r → Q 0 [ctrl] u → P (k r u))
include hk

theorem through_tickWait (vr : Verify) (rbc : Word32) (hctrl : ctrl ≠ 2#2) (hs : Q 0 [ctrl] s) :
    P (tickWait vr rbc s k) :=
  h.wait hs fun u hu => hk _ ctrl u ⟨rfl, rfl, rfl, ⟨(nomatch ·), (absurd · hctrl)⟩⟩ hu

theorem through_tickWrite (t : Word32) (hctrl : ctrl ≠ 2#2) (hs : Q 2 [ctrl] s) : P (tickWrite t s k) := by
  have he : Q 2 [ctrl] (encodeBody (loadPayload s)).2 := h.keep_encodeBody (h.keep_loadPayload hs)
  have hreport (e vr rbc u) (hu : Q 0 [ctrl] u) : P (emitThen e u fun v => tickWait vr rbc v k) :=
    h.emit hu fun _ hv => h.through_tickWait hk vr rbc hctrl hv
  unfold tickWrite
  dsimp only
  split
  next => exact hreport _ _ _ _ (h.spare (h.spare he))
  next =>
    refine h.through_writeBody true t he fun w u hu => ?_
    split
    next => exact hreport _ _ _ _ hu
    next => exact hreport _ _ _ _ hu

theorem through_tickPoll (t : Word32) (hs : Q 2 [] s) : P (tickPoll t s k) := by
  refine h.poll hs fun ctrl u hu => ?_
  obtain ⟨h1, hsig⟩ | ⟨h2, hsig⟩ | ⟨-, h2, hsig⟩ := signalOf_cases ctrl <;> rw [hsig]
  case inl => exact h.through_tickWrite hk t (by rw [h1]; decide) hu
  case inr.inl => exact hk _ ctrl u ⟨rfl, rfl, rfl, ⟨fun _ => h2, fun _ => rfl⟩⟩ (h.spare (h.spare hu))
  case inr.inr => exact h.through_tickWait hk _ _ h2 (h.spare (h.spare hu))

/-- A tick in a ready session issues at most three requests and polls once (R185, R186 (h)). -/
theorem through_tickBody (t : Word32) (hready : s.ready = true) (hs : Q 3 [] s) : P (tickBody t s k) := by
  rw [tickBody, if_pos hready]
  exact h.through_readBody t hs fun r _ hu => h.through_tickDecode r hu fun _ hv => h.through_tickPoll hk t hv

end

end PassedOn

/-! ### The requests of a tick -/

/-- From `s` on at most three requests less `n` were issued, and nothing was closed (R186 (h)). -/
structure FewRequests (s : State) (n : Nat) (u : State) : Prop where
  calls : u.seen Obs.isCall + n ≤ s.seen Obs.isCall + 3
  closes (h : Handle) : u.seen (Obs.closesCh h) = s.seen (Obs.closesCh h) ∧
    u.seen (Obs.closesDrv h) = s.seen (Obs.closesDrv h)

/-- What is no request closes nothing. -/
theorem not_closes_of_not_call {o : Obs} (ho : o.isCall = false) (h : Handle) :
    o.closesCh h = false ∧ o.closesDrv h = false := by
  cases o with
  | call => cases ho
  | _ => exact ⟨rfl, rfl⟩

/-- A transfer closes nothing. -/
theorem not_closes_of_transfer {o : Obs} (ho : o.isTransfer = true) (h : Handle) :
    o.closesCh h = false ∧ o.closesDrv h = false := by
  cases o with
  | call p a v =>
    cases p with
    | chRead | chWrite | chReadBack => exact ⟨rfl, rfl⟩
    | _ => cases ho
  | _ => cases ho

section
variable {s u : State} {n : Nat}

theorem FewRequests.observe {o : Obs} (hu : FewRequests s n u) (ho : o.isCall = false) :
    FewRequests s n (u.observe o) where
  calls := by
    rw [seen_observe, ho]
    exact hu.calls
  closes h := by
    obtain ⟨hch, hdrv⟩ := not_closes_of_not_call ho h
    rw [seen_observe, seen_observe, hch, hdrv]
    exact hu.closes h

theorem FewRequests.observe_transfer {p : Primitive} {a : Option Answer} {v : Visible}
    (hu : FewRequests s (n + 1) u) (hp : (Obs.call p a v).isTransfer = true) :
    FewRequests s n (u.observe (.call p a v)) where
  calls := by
    have hcalls : u.seen Obs.isCall + (n + 1) ≤ s.seen Obs.isCall + 3 := hu.calls
    have hone : (u.observe (.call p a v)).seen Obs.isCall = u.seen Obs.isCall + 1 := seen_observe ..
    omega
  closes h := by
    obtain ⟨hch, hdrv⟩ := not_closes_of_transfer hp h
    rw [seen_observe, seen_observe, hch, hdrv]
    exact hu.closes h

theorem FewRequests.spare {m : Nat} (hu : FewRequests s n u) (hm : m ≤ n) : FewRequests s m u :=
  ⟨(Nat.add_le_add_left hm _).trans hu.calls, hu.closes⟩

/-- A cut-off issues nothing (R240, R241). -/
theorem FewRequests.hardReset (hu : FewRequests s n u) : FewRequests s 0 (hardReset u) :=
  have hreset := hu.observe (o := .reset) rfl
  ⟨(hreset.spare (Nat.zero_le n)).calls, hreset.closes⟩

theorem FewRequests.through_orReset {k : State → State} (hu : FewRequests s n u)
    (hk : ∀ l, FewRequests s 0 (k (u.portsAt u.collab l u.draws))) : FewRequests s 0 (orReset u k) :=
  orReset_elim (P := FewRequests s 0) hk
    (fun l => FewRequests.hardReset (u := u.portsAt u.collab l u.draws) ⟨hu.calls, hu.closes⟩)

end

/-- Only a request counts, and a tick's requests are transfers. -/
theorem passedOn_fewRequests (s : State) : PassedOn (fun n _ => FewRequests s n) (FewRequests s 0) where
  keep _ htraffic hu := by
    refine ⟨?_, fun h => ?_⟩ <;> simp only [State.seen, htraffic.history]
    · exact hu.calls
    · exact hu.closes h
  spare hu := hu.spare (Nat.le_succ _)
  call {n _ u p _} hp hu hk :=
    have hcall (a c l d) : FewRequests s n ((u.portsAt c l d).observe (.call p a u.visible)) :=
      FewRequests.observe_transfer (u := u.portsAt c l d) ⟨hu.calls, hu.closes⟩ (hp a _)
    callThen_elim (P := FewRequests s 0)
      (before := fun l => FewRequests.hardReset (u := u.portsAt u.collab l u.draws) ⟨hu.calls, hu.closes⟩)
      (during := fun c l d => (hcall none c l d).hardReset)
      (silent := fun c l => ⟨((hcall none c l _).spare (Nat.zero_le n)).calls, (hcall none c l _).closes⟩)
      (answered := fun a c l d => hk a _ (hcall (some a) c l d))
  emit {_ _ u _ _} hu hk := hu.through_orReset fun l =>
    hk _ (FewRequests.observe (u := u.portsAt u.collab l u.draws) ⟨hu.calls, hu.closes⟩ rfl)
  poll {_ u _} hu hk := hu.through_orReset fun l => by
    obtain ⟨ctrl, cs, d, hpoll⟩ := pollControl_cases (u.portsAt u.collab l u.draws)
    rw [hpoll]
    exact hk ctrl _ (FewRequests.observe (u := (u.portsAt u.collab l u.draws).ctrlAt cs d) ⟨hu.calls, hu.closes⟩ rfl)
  wait {n _ u _} hu hk :=
    have hports (l) : FewRequests s n (u.portsAt u.collab l u.draws) := ⟨hu.calls, hu.closes⟩
    waitThen_elim (P := FewRequests s 0)
      (waited := fun l => hk _ ((hports l).observe rfl))
      (before := fun l => (hports l).hardReset)
      (during := fun l => ((hports l).observe rfl).hardReset)

theorem endCommand_fewRequests {s u : State} (r : Reply) (hu : FewRequests s 0 u) :
    FewRequests s 0 (endCommand r u) :=
  hu.through_orReset fun _ =>
    have hresponse := hu.observe (o := .response (rspWord r.status r.phase r.verify u.sess r.term) r.code) rfl
    ⟨hresponse.calls, hresponse.closes⟩

/-- Settles O46. -/
theorem tickIssuesAtMostThreePrimitives : Obligations.TickIssuesAtMostThreePrimitives := by
  intro s t tm h
  cases h
  have hs : FewRequests s 3 s.begin := ⟨le_rfl, fun _ => ⟨rfl, rfl⟩⟩
  have hfew : FewRequests s 0 (tickBody tm s.begin endCommand) := by
    cases hready : s.ready with
    | true =>
      exact (passedOn_fewRequests s).through_tickBody (fun r _ _ _ hu => endCommand_fewRequests r hu) tm hready hs
    | false =>
      rw [tickBody_of_not_ready (s := s.begin) hready]
      exact endCommand_fewRequests _ (hs.spare (Nat.zero_le 3))
  exact ⟨hfew.calls, hfew.closes⟩

/-! ### A tick under answered requests -/

/-- What moving data leaves as it is. -/
structure KeptByExchange (s t : State) : Prop where
  busy : t.busy = s.busy
  activity : t.activity = s.activity
  ready : s.ready = true → t.ready = true
  handles : s.sameHandles t
  operands : s.sameOperands t

theorem DataUpdate.keptByExchange {s t : State} (hu : DataUpdate s t) : KeptByExchange s t := by
  cases hu with
  | enterActive =>
    unfold Machine.enterActive
    split
    next => exact ⟨rfl, rfl, fun _ => rfl, ⟨rfl, rfl, rfl, rfl⟩, ⟨rfl, rfl, rfl, rfl⟩⟩
    next => exact ⟨rfl, rfl, id, ⟨rfl, rfl, rfl, rfl⟩, ⟨rfl, rfl, rfl, rfl⟩⟩
  | _ => exact ⟨rfl, rfl, id, ⟨rfl, rfl, rfl, rfl⟩, ⟨rfl, rfl, rfl, rfl⟩⟩

theorem KeptByExchange.trans {s t u : State} (h : KeptByExchange s t) (h' : KeptByExchange t u) :
    KeptByExchange s u where
  busy := h'.busy.trans h.busy
  activity := h'.activity.trans h.activity
  ready hs := h'.ready (h.ready hs)
  handles := by
    obtain ⟨hdrvH, hchH, hdrv, hch⟩ := h.handles
    obtain ⟨hdrvH', hchH', hdrv', hch'⟩ := h'.handles
    exact ⟨hdrvH'.trans hdrvH, hchH'.trans hchH, hdrv'.trans hdrv, hch'.trans hch⟩
  operands := by
    obtain ⟨hcmd, harg, hname, hcfg⟩ := h.operands
    obtain ⟨hcmd', harg', hname', hcfg'⟩ := h'.operands
    exact ⟨hcmd'.trans hcmd, harg'.trans harg, hname'.trans hname, hcfg'.trans hcfg⟩

/-- From `s` on a tick has polled `cs`, the next samples of the control port if it has any; requests were answered, no
response was given, and the rest is as moving data leaves it. -/
structure Ticking (s : State) (cs : List (BitVec 2)) (u : State) : Prop where
  cooperative : u.cooperative = true
  kept : KeptByExchange s u
  polls : u.seen Obs.isPoll = s.seen Obs.isPoll + cs.length
  responses : u.seen Obs.isResponse = s.seen Obs.isResponse
  port : s.ctrlPort ≠ [] → s.ctrlPort = cs ++ u.ctrlPort

theorem Ticking.refl {s : State} (hs : s.cooperative = true) : Ticking s [] s :=
  ⟨hs, ⟨rfl, rfl, id, ⟨rfl, rfl, rfl, rfl⟩, ⟨rfl, rfl, rfl, rfl⟩⟩, rfl, rfl, fun _ => rfl⟩

section
variable {s u : State} {cs : List (BitVec 2)} (hu : Ticking s cs u)
include hu

theorem Ticking.portsAt {c : List PortEvent} {l : List ResetInput} {d : Nat}
    (hc : (u.portsAt c l d).cooperative = true) : Ticking s cs (u.portsAt c l d) :=
  { hu with cooperative := hc, kept := hu.kept.trans (DataUpdate.portsAt ..).keptByExchange }

/-- An entry that is neither a poll nor a response. -/
theorem Ticking.observe {o : Obs} (ho : o.ofExchange = true) (hpoll : o.isPoll = false) :
    Ticking s cs (u.observe o) where
  cooperative := hu.cooperative
  kept := hu.kept.trans (DataUpdate.observe o ho).keptByExchange
  polls := by
    rw [seen_observe, hpoll]
    exact hu.polls
  responses := by
    have hnone : o.isResponse = false := by
      cases o with
      | response => cases ho
      | _ => rfl
    rw [seen_observe, hnone]
    exact hu.responses
  port := hu.port

end

/-- The poll takes the next sample if there is one, else a free value (R183). -/
theorem Ticking.poll {s u : State} (hu : Ticking s [] u) :
    ∃ ctrl v, pollControl u = (signalOf ctrl, v) ∧ Ticking s [ctrl] v := by
  have hsampled (ctrl cs d) (hport : s.ctrlPort ≠ [] → s.ctrlPort = [ctrl] ++ cs) :
      Ticking s [ctrl] ((u.ctrlAt cs d).observe (.poll ctrl)) :=
    { cooperative := hu.cooperative
      kept := (hu.kept.trans (DataUpdate.ctrlAt ..).keptByExchange).trans
        (DataUpdate.observe (.poll ctrl) rfl).keptByExchange
      polls := (seen_observe (u.ctrlAt cs d) ..).trans (congrArg (· + 1) hu.polls)
      responses := (seen_observe (u.ctrlAt cs d) ..).trans hu.responses
      port := hport }
  cases hport : u.ctrlPort with
  | nil =>
    obtain ⟨ctrl, cs, d, hpoll⟩ := pollControl_cases u
    exact ⟨ctrl, _, hpoll, hsampled ctrl cs d fun hne => absurd ((hu.port hne).trans hport) hne⟩
  | cons ctrl cs => exact ⟨ctrl, _, pollControl_cons hport, hsampled ctrl cs _ fun hne => (hu.port hne).trans hport⟩

/-- With requests answered and no reset nothing cuts a tick off. -/
theorem passedOn_ticking (s : State) (P : State → Prop) : PassedOn (fun _ cs => Ticking s cs) P where
  keep {_ _ u v} hupdate htraffic hu :=
    { cooperative := by
        rw [State.cooperative, htraffic.collab, htraffic.resetLine]
        exact hu.cooperative
      kept := hu.kept.trans hupdate.keptByExchange
      polls := by
        rw [State.seen, htraffic.history]
        exact hu.polls
      responses := by
        rw [State.seen, htraffic.history]
        exact hu.responses
      port := by
        rw [htraffic.ctrlPort]
        exact hu.port }
  spare hu := hu
  call hp hu hk := callThen_of_cooperative hu.cooperative fun a _ _ _ hc =>
    hk a _ ((hu.portsAt hc).observe (hp _ _) rfl)
  emit hu hk := orReset_of_cooperative hu.cooperative fun _ hc => hk _ ((hu.portsAt hc).observe rfl rfl)
  poll hu hk := orReset_of_cooperative hu.cooperative fun _ hc => by
    obtain ⟨ctrl, v, hpoll, hv⟩ := (hu.portsAt hc).poll
    rw [hpoll]
    exact hk ctrl v hv
  wait hu hk := waitThen_of_cooperative hu.cooperative fun _ hc => hk _ ((hu.portsAt hc).observe rfl rfl)

/-- A tick in a ready session under answered requests comes to its reply (R185, R186). -/
theorem tickBody_of_cooperative {P : State → Prop} {s : State} {k : Reply → State → State} (t : Word32)
    (hs : s.cooperative = true) (hready : s.ready = true)
    (hk : ∀ r ctrl u, TickReply ctrl r → Ticking s [ctrl] u → P (k r u)) : P (tickBody t s k) :=
  (passedOn_ticking s P).through_tickBody hk t hready (.refl hs)

/-- `t` is what a tick leaves of `s` that has ended under answered requests (R185). -/
structure EndedTick (s t : State) : Prop where
  status : t.lastStatus = .ok
  phase : t.lastPhase = .none
  code : t.lastCode = 0#32
  busy : t.busy = false
  activity : t.activity = .idle
  ready : t.ready = true
  handles : s.sameHandles t
  operands : s.sameOperands t
  polls : t.seen Obs.isPoll = s.seen Obs.isPoll + 1
  responses : t.seen Obs.isResponse = s.seen Obs.isResponse + 1

theorem respond_endedTick {s u : State} {r : Reply} {ctrl : BitVec 2} (hready : s.ready = true)
    (hr : TickReply ctrl r) (hu : Ticking s [ctrl] u) : EndedTick s (respond r u) where
  status := hr.status
  phase := hr.phase
  code := hr.code
  busy := rfl
  activity := rfl
  ready := hu.kept.ready hready
  handles := hu.kept.handles
  operands := hu.kept.operands
  polls := (seen_observe (u.withReply r) (.response ..) _).trans hu.polls
  responses := (seen_observe (u.withReply r) (.response ..) _).trans (congrArg (· + 1) hu.responses)

theorem tickBody_endedTick {s : State} (tm : Word32) (hready : s.ready = true) (hs : s.cooperative = true) :
    EndedTick s (tickBody tm s endCommand) :=
  tickBody_of_cooperative tm hs hready fun _ _ _ hr hu =>
    orReset_of_cooperative hu.cooperative fun _ hc => respond_endedTick hready hr (hu.portsAt hc)

/-- Settles O45: a tick in a ready session ends whatever it is answered, and each of its failures is one of the whole
states above. -/
theorem tickAbsorbsEveryFailure : Obligations.TickAbsorbsEveryFailure := by
  refine ⟨fun s tm hready hs => ?ends, fun s tm a b rest cs hsess hr hc hb hport hfits => ?writeFails,
    fun s tm a rest cs hsess hr hc hport hover => ?overflows,
    fun s tm a b d rest cs hsess hr hc hb hd hport hfits => ?readBackFails⟩
  case ends =>
    obtain ⟨hstatus, hphase, hcode, hbusy, hact, hrdy, hhandles, hops, hpolls, hresponses⟩ :=
      tickBody_endedTick (s := s.begin) tm hready hs
    exact ⟨_, rfl, hstatus, hphase, hcode, hbusy, hact, hrdy, hhandles, hops, hpolls, hresponses⟩
  case writeFails =>
    exact ⟨_, (voidIn s).begin.visible, (consumeTx (s.afterPoll a cs).encoded).begin.visible,
      exec_tick_writeFails hsess hr hport hfits hc hb, ended_repliedWith .., rfl, afterRead_sess s a,
      ⟨rfl, rfl, rfl, rfl⟩, ⟨rfl, rfl, rfl, rfl⟩, fun _ => rfl, rfl, rfl, rfl, ended_history_obs ..⟩
  case overflows =>
    exact ⟨_, (voidIn s).begin.visible, exec_tick_overflows hsess hr hport hc hover, ended_repliedWith .., rfl,
      afterRead_sess s a, ⟨rfl, rfl, rfl, rfl⟩, ⟨rfl, rfl, rfl, rfl⟩, fun _ => rfl, fun _ => rfl, rfl, rfl, rfl,
      ended_history_obs ..⟩
  case readBackFails =>
    exact ⟨_, (voidIn s).begin.visible, (consumeTx (s.afterPoll a cs).encoded).begin.visible,
      (s.afterPoll a cs).written.begin.visible, exec_tick_readBackFails hsess hr hport hfits hc hb hd,
      ended_repliedWith .., rfl, rfl, ⟨rfl, rfl, rfl, rfl⟩, ⟨rfl, rfl, rfl, rfl⟩, fun _ => rfl, rfl, rfl, rfl,
      ended_history_obs ..⟩

/-! ### RUN -/

/-- RUN in a ready session is the first tick of its loop (R188; log 7). -/
theorem exec_run {s : State} (t : Word32) (hready : s.ready = true) :
    exec (.run t) s = .next (runTick t (loopOn t s.begin)) :=
  congrArg _ (if_pos hready)

theorem exec_run_during {s : State} (t : Word32) {c : List PortEvent} (hready : s.ready = true) (hc : s.collab = c) :
    exec (.run t) s = .next (runTick t ((loopOn t s).during c [])) := by
  rw [exec_run t hready, begin_eq_during hc]
  rfl

section
variable {s : State} (hr : s.resetLine = []) (hsess : s.sess = .busOn ∨ s.sess = .active) (t : Word32) (a : Answer)
  (rest : List PortEvent) {cs : List (BitVec 2)}
include hr hsess

/-- A tick of RUN that polls `Continue` leaves the loop running (R188). -/
theorem runTick_continues {ctrl : BitVec 2} (hport : s.ctrlPort = ctrl :: cs) (h1 : ctrl ≠ 1#2) (h2 : ctrl ≠ 2#2) :
    runTick t (s.during (.answer a :: rest) []) =
      (s.afterPoll a cs).during rest (s.pollObs t a ctrl ++ [.wait s.cfg.pacingMs]) :=
  (tickBody_continues hr hsess t a rest _ hport h1 h2).trans (if_neg Bool.false_ne_true)

/-- A tick of RUN that polls `Terminate` is followed by the terminal close (R188). -/
theorem runTick_terminates (hport : s.ctrlPort = 2#2 :: cs) :
    runTick t (s.during (.answer a :: rest) []) =
      runClose { term := true } ((s.afterPoll a cs).during rest (s.pollObs t a 2#2)) :=
  (tickBody_terminates hr hsess t a rest _ hport).trans (if_pos rfl)

end

/-- Settles O47. -/
theorem runTerminatesAndCloses : Obligations.RunTerminatesAndCloses := by
  intro s tm a b d rest cs hsess hch hdrv hr hc ha hport
  have hexec : exec (.run tm) s = .next (State.ended
      { moveTo .closed (dropDrv (dropCh ((loopOn tm s).afterPoll a cs))) with collab := rest } { term := true }
      ((loopOn tm s).pollObs tm a 2#2 ++
        [.call (.chClose s.chH) (some b) ((loopOn tm s).afterPoll a cs).begin.visible] ++
        [.call (.drvClose s.drvH) (some d) (dropCh ((loopOn tm s).afterPoll a cs)).begin.visible])) := by
    rw [exec_run_during tm ((ready_iff s).mpr hsess) hc,
      runTick_terminates (s := loopOn tm s) hr hsess tm a _ hport]
    exact congrArg _ (release_closes (s := (loopOn tm s).afterPoll a cs) hr hch hdrv ..)
  rw [afterPoll_of_ok (by exact ha), pollObs_of_ok (by exact ha)] at hexec
  obtain ⟨hrx, hin⟩ := received_reads (loopOn tm s) a.data
  exact ⟨_, (voidIn s).begin.visible, _, _, hexec, ended_repliedWith .., rfl, rfl, rfl, rfl, rfl, rfl, hin, hrx,
    ⟨fun _ => rfl, fun _ => rfl, rfl, fun _ => rfl⟩, ⟨rfl, rfl, rfl, rfl⟩, rfl, rfl, rfl, rfl, ended_history_obs ..⟩

/-- What a tick of RUN that does not end it leaves of `s` (R188, R191 (f)). -/
structure LoopedOn (s : State) (cs : List (BitVec 2)) (t : State) : Prop where
  kept : KeptByExchange s t
  port : t.ctrlPort = cs
  responses : t.seen Obs.isResponse = s.seen Obs.isResponse

/-- With the next sample other than `Terminate` a tick of RUN leaves the loop running, whatever it is answered (R188,
R190). -/
theorem runTick_loopedOn {s : State} (t : Word32) {ctrl : BitVec 2} {cs : List (BitVec 2)} (hready : s.ready = true)
    (hs : s.cooperative = true) (hport : s.ctrlPort = ctrl :: cs) (h2 : ctrl ≠ 2#2) : LoopedOn s cs (runTick t s) :=
  tickBody_of_cooperative t hs hready fun r sample u hr hu => by
    have htaken : s.ctrlPort = sample :: u.ctrlPort := hu.port (hport ▸ List.cons_ne_nil _ _)
    obtain ⟨rfl, rfl⟩ := List.cons.inj (hport.symm.trans htaken)
    rw [if_neg (mt hr.term.mp h2)]
    exact ⟨hu.kept, rfl, hu.responses⟩

theorem advance_of_runLoop {s : State} {t : Word32} (hact : s.activity = .runLoop t) : advance s = runTick t s := by
  simp only [advance, hact]

/-- The next step of a running RUN that the host leaves alone is its next tick (R190; log 7). -/
theorem step_runLoop {s : State} {t : Word32} (hport : s.hostPort = []) (hact : s.activity = .runLoop t) :
    step s = .next (runTick t s) := by
  simp only [step, hport, advance_of_runLoop hact]

theorem step_runLoop_wait {s : State} {t : Word32} {rest : List HostAction} (hport : s.hostPort = .wait :: rest)
    (hact : s.activity = .runLoop t) : step s = .next (runTick t { s with hostPort := rest }) := by
  have hadvance : advance { s with hostPort := rest } = runTick t { s with hostPort := rest } :=
    advance_of_runLoop hact
  rw [step_of_hostPort hport, hostTurn, ← hadvance]
  split
  next => rfl
  next => rfl

/-- Settles O48. -/
theorem runGoesOnUntilTerminate : Obligations.RunGoesOnUntilTerminate := by
  refine ⟨fun s tm a rest c cs hsess hr hc ha hport h1 h2 => ?firstTick,
    fun s tm c cs hready hs hport h2 => ?anyFirstTick,
    fun s tm c cs hhost hact hbusy hready hs hport h2 => ?anyNextTick,
    fun s tm hready => exec_run tm hready, fun s tm hhost hact => step_runLoop hhost hact,
    fun s tm rest hhost hact => step_runLoop_wait hhost hact⟩
  case firstTick =>
    have hexec : exec (.run tm) s = .next (((loopOn tm s).afterPoll a cs).during rest
        ((loopOn tm s).pollObs tm a c ++ [.wait s.cfg.pacingMs])) := by
      rw [exec_run_during tm ((ready_iff s).mpr hsess) hc]
      exact congrArg _ (runTick_continues (s := loopOn tm s) hr hsess tm a rest hport h1 h2)
    rw [afterPoll_of_ok (by exact ha), pollObs_of_ok (by exact ha)] at hexec
    exact ⟨_, (voidIn s).begin.visible, hexec, rfl, rfl, rfl, rfl, ⟨rfl, rfl, rfl, rfl⟩,
      ⟨fun _ => rfl, fun _ => rfl, rfl, fun _ => rfl⟩, ⟨rfl, rfl, rfl, rfl⟩, rfl, rfl, rfl, rfl, rfl, rfl⟩
  case anyFirstTick =>
    have hlooped := runTick_loopedOn (s := loopOn tm s.begin) tm hready hs hport h2
    obtain ⟨⟨hb, ha, hrdy, hhandles, hops⟩, htaken, hresponses⟩ := hlooped
    exact ⟨_, exec_run tm hready, hb, ha, hrdy hready, hhandles, hops, htaken, hresponses⟩
  case anyNextTick =>
    obtain ⟨⟨hb, ha, hrdy, hhandles, hops⟩, htaken, hresponses⟩ := runTick_loopedOn tm hready hs hport h2
    exact ⟨_, step_runLoop hhost hact, hb.trans hbusy, ha.trans hact, hrdy hready, hhandles, hops, htaken, hresponses⟩

/-! ### The terminal close -/

/-- The terminal close of RUN under answered requests (R188). -/
structure RunClosed (s : State) (r : Reply) (t : State) : Prop where
  sess : t.sess = .closed
  noHandles : t.noHandles = true
  replied : t.repliedWith r
  kept : KeptByRelease s t

theorem runClose_of_cooperative {s : State} (r : Reply) (hs : s.cooperative = true) :
    RunClosed s r (runClose r s) :=
  release_of_cooperative hs (.refl s) fun _ hnone hv =>
    { sess := rfl, noHandles := hnone, replied := ⟨rfl, rfl, rfl, rfl, rfl, rfl, rfl, rfl⟩, kept := { hv with } }

section
variable {f : Obs → Bool} (hf : ∀ o, f o = true → o.ofExchange = true)
include hf

/-- An entry that moving data does not make is not counted among those it makes. -/
theorem seen_observe_of_not_ofExchange (s : State) {o : Obs} (ho : o.ofExchange = false) :
    (s.observe o).seen f = s.seen f := by
  have hnot : f o = false := Bool.eq_false_iff.mpr fun h => Bool.eq_false_iff.mp ho (hf o h)
  rw [seen_observe, hnot]
  rfl

theorem callThen_seen {n : Nat} {p : Primitive} {s : State} {k : Answer → State → State} (hs : s.seen f = n)
    (hp : ∀ a v, (Obs.call p a v).ofExchange = false) (hk : ∀ a u, u.seen f = n → (k a u).seen f = n) :
    (callThen p s k).seen f = n :=
  have hcall (a c l d) : ((s.portsAt c l d).observe (.call p a s.visible)).seen f = n :=
    (seen_observe_of_not_ofExchange hf (s.portsAt c l d) (hp a _)).trans hs
  have hreset (u : State) (hu : u.seen f = n) : (hardReset u).seen f = n :=
    (seen_observe_of_not_ofExchange hf u (o := .reset) rfl).trans hu
  callThen_elim (P := fun t => t.seen f = n)
    (before := fun l => hreset (s.portsAt s.collab l s.draws) hs)
    (during := fun c l d => hreset _ (hcall none c l d))
    (silent := fun c l => hcall none c l _)
    (answered := fun a c l d => hk a _ (hcall (some a) c l d))

theorem endCommand_seen (r : Reply) (s : State) : (endCommand r s).seen f = s.seen f :=
  orReset_elim (P := fun t => t.seen f = s.seen f)
    (fun _ => seen_observe_of_not_ofExchange hf s
      (o := .response (rspWord r.status r.phase r.verify s.sess r.term) r.code) rfl)
    (fun _ => seen_observe_of_not_ofExchange hf s (o := .reset) rfl)

/-- The terminal close moves no data and polls nothing. -/
theorem runClose_seen (r : Reply) (s : State) : (runClose r s).seen f = s.seen f := by
  have hend (u : State) (hu : u.seen f = s.seen f) : (endCommand r (moveTo .closed u)).seen f = s.seen f :=
    (endCommand_seen hf r (moveTo .closed u)).trans hu
  have hdrv (u : State) (hu : u.seen f = s.seen f) :
      (releaseDrvThen u fun v => endCommand r (moveTo .closed v)).seen f = s.seen f := by
    unfold releaseDrvThen
    split
    next => exact callThen_seen hf hu (fun _ _ => rfl) fun _ v hv => hend (dropDrv v) hv
    next => exact hend u hu
  rw [runClose, closeBody, releaseThen]
  split
  next => exact callThen_seen hf rfl (fun _ _ => rfl) fun _ u hu => hdrv (dropCh u) hu
  next => exact hdrv s rfl

end

theorem ofExchange_of_transfer {o : Obs} (h : o.isTransfer = true) : o.ofExchange = true := by
  cases o with
  | call => exact h
  | _ => cases h

theorem ofExchange_of_poll {o : Obs} (h : o.isPoll = true) : o.ofExchange = true := by
  cases o with
  | poll => rfl
  | _ => cases h

/-- Settles O49. -/
theorem runRefusedStillCloses : Obligations.RunRefusedStillCloses := by
  intro s tm hready hs
  have hexec : exec (.run tm) s = .next (runClose Reply.refused s.begin) :=
    congrArg _ (if_neg (Bool.eq_false_iff.mp hready))
  obtain ⟨hsess, hnone, hreplied, hin, hout, hops, hports⟩ := runClose_of_cooperative Reply.refused (s := s.begin) hs
  obtain ⟨hdrv, hch⟩ := (noHandles_iff _).mp hnone
  exact ⟨_, hexec, hreplied, hsess, hch, hdrv, hin, hout, hops, hports,
    runClose_seen (fun _ => ofExchange_of_transfer) _ s.begin, runClose_seen (fun _ => ofExchange_of_poll) _ s.begin⟩

/-- `t` is still in its command, or RUN has ended with its terminal close (R188, R189). -/
def RunningOrClosed (t : State) : Prop :=
  t.busy = true ∨ (t.sess = .closed ∧ t.noHandles = true ∧ t.lastStatus = .ok ∧ t.lastTerm = true)

/-- A tick of RUN ends it by the terminal close only (R188). -/
theorem runTick_runningOrClosed {s : State} (t : Word32) (hbusy : s.busy = true) (hs : s.cooperative = true) :
    RunningOrClosed (runTick t s) := by
  cases hready : s.ready with
  | false =>
    rw [runTick, tickBody_of_not_ready hready]
    exact .inl hbusy
  | true =>
    refine tickBody_of_cooperative t hs hready fun r _ u _ hu => ?_
    split
    next =>
      obtain ⟨hsess, hnone, ⟨hstatus, -, -, -, -, hterm, -, -⟩, -⟩ :=
        runClose_of_cooperative { term := true } hu.cooperative
      exact .inr ⟨hsess, hnone, hstatus, hterm⟩
    next => exact .inl (hu.kept.busy.trans hbusy)

/-- Settles O50. -/
theorem runEndsClosed : Obligations.RunEndsClosed := by
  intro s t tm hact hbusy hhost hs hstep hended
  rw [step_runLoop hhost hact] at hstep
  cases hstep
  obtain hrunning | ⟨hsess, hnone, hstatus, hterm⟩ := runTick_runningOrClosed tm hbusy hs
  · exact nomatch hrunning.symm.trans hended
  · obtain ⟨hdrv, hch⟩ := (noHandles_iff _).mp hnone
    exact ⟨hsess, hch, hdrv, hstatus, hterm⟩

end Sys2Proof.Machine

/-! SUPPORT. The family of `60_exceptions.md`: what never happens (R225), an idle block (R214), refused commands (R150,
R208), and the ports only TICK and RUN look at (R210). -/

namespace Sys2Proof.Machine

/-! ### What is never called, and what an idle block does -/

/-- Settles O60: an entry after a step is an old one, or one the block can make, and no call of `getErrorDescription`
is one of these. -/
theorem errorDescriptionIsNeverCalled : Obligations.ErrorDescriptionIsNeverCalled := by
  intro s t hs hstep
  have hold : ∀ o ∈ s.history, ¬ o.isErrDesc = true := List.countP_eq_zero.mp hs
  refine List.countP_eq_zero.mpr fun o ho => ?_
  obtain hmem | ⟨-, hmade⟩ := (step_reaches hstep).mem_history ho
  · exact hold o hmem
  · exact Bool.eq_false_iff.mp hmade

theorem advance_of_idle {s : State} (h : s.activity = .idle) : advance s = s := by
  simp only [advance, h]

/-- When the host waits, the block goes on by itself, whether `BUSY` is 0 or 1 (log 10). -/
theorem step_wait {s : State} {rest : List HostAction} (h : s.hostPort = .wait :: rest) :
    step s = .next (advance { s with hostPort := rest }) := by
  rw [step_of_hostPort h, hostTurn]
  split
  next => rfl
  next => rfl

/-- Settles O7. -/
theorem idleBlockWaits : Obligations.IdleBlockWaits := by
  refine ⟨fun s hport hidle => ?noAction, fun s rest hport hidle => ?wait⟩
  case noAction => simp only [step, hport, advance_of_idle hidle]
  case wait => rw [step_wait hport, advance_of_idle (by exact hidle)]

/-! ### Refused commands -/

theorem not_ready {s : State} (hbus : s.sess ≠ .busOn) (hactive : s.sess ≠ .active) : s.ready = false :=
  Bool.eq_false_iff.mpr fun h => ((ready_iff s).mp h).elim hbus hactive

theorem openBody_of_not_closed {s : State} (h : s.sess ≠ .closed) (k : Reply → State → State) :
    openBody s k = k Reply.refused s := if_neg h

theorem negotiateBody_of_not_opened {s : State} (h : s.sess ≠ .opened) (k : Reply → State → State) :
    negotiateBody s k = k Reply.refused s := if_neg h

/-- DECODE of a length past the end of `RX_AREA` (R122). -/
theorem decodeBody_tooLong {len : Nat} (s : State) (h : inAreaBytes < len) :
    decodeBody len s = (Reply.refused, s) := if_pos h

/-- Settles O26: each command does no more than respond, and with no reset it leaves what `endCommand_begin` says. -/
theorem refusedCommandChangesNothing : Obligations.RefusedCommandChangesNothing := by
  intro s hr
  have hended : endCommand Reply.refused s.begin = s.ended Reply.refused [] := endCommand_begin _ hr
  refine ⟨fun h => ?openCh, fun h => ?negotiate, fun t hbus hactive => ?read, fun v t h => ?write,
    fun t hbus hactive => ?tick, fun len h => ?decode⟩
  case openCh => exact congrArg _ ((openBody_of_not_closed (s := s.begin) h _).trans hended)
  case negotiate => exact congrArg _ ((negotiateBody_of_not_opened (s := s.begin) h _).trans hended)
  case read => exact congrArg _ ((readBody_of_not_ready (s := s.begin) (not_ready hbus hactive) _ t).trans hended)
  case write =>
    have hrefused : writeBody v t s.begin endCommand = endCommand Reply.refused s.begin := by
      obtain ⟨hbus, hactive⟩ | htx := h
      · exact writeBody_of_not_ready (s := s.begin) (not_ready hbus hactive) _ v t
      · exact writeBody_of_not_txValid (s := s.begin) htx v t _
    exact congrArg _ (hrefused.trans hended)
  case tick => exact congrArg _ ((tickBody_of_not_ready (s := s.begin) (not_ready hbus hactive) _ t).trans hended)
  case decode =>
    rw [exec_decode, decodeBody_tooLong s.begin h]
    exact congrArg _ hended

/-! ### The ports that only TICK and RUN look at -/

/-- All that sampling the control port or the payload port changes: the samples to come, and the polls made (R29,
R183, R184). -/
def State.sampling (s : State) : List (BitVec 2) × List (List Word) × Nat :=
  (s.ctrlPort, s.payloadPort, s.seen Obs.isPoll)

section
variable {x : List (BitVec 2) × List (List Word) × Nat} {s : State} (hs : s.sampling = x)
include hs

/-- An entry of the history that is no poll tells of no sampling. -/
theorem observe_sampling {o : Obs} (ho : o.isPoll = false) : (s.observe o).sampling = x := by
  have hpolls : (s.observe o).seen Obs.isPoll = s.seen Obs.isPoll := by
    rw [seen_observe, ho]
    rfl
  rw [← hs, State.sampling, hpolls]
  rfl

theorem hardReset_sampling : (hardReset s).sampling = x := observe_sampling hs (o := .reset) rfl

theorem endCommand_sampling (r : Reply) : (endCommand r s).sampling = x :=
  orReset_elim (P := fun t => t.sampling = x)
    (fun _ => observe_sampling hs (o := .response (rspWord r.status r.phase r.verify s.sess r.term) r.code) rfl)
    (fun l => hardReset_sampling (s := s.portsAt s.collab l s.draws) hs)

/-- A call samples neither port, however it ends: only what comes after its answer has to be looked at. -/
theorem callThen_sampling {p : Primitive} {k : Answer → State → State}
    (hk : ∀ a u, u.sampling = x → (k a u).sampling = x) : (callThen p s k).sampling = x :=
  have hcall (a c l d) : ((s.portsAt c l d).observe (.call p a s.visible)).sampling = x :=
    observe_sampling (s := s.portsAt c l d) hs rfl
  callThen_elim (P := fun t => t.sampling = x)
    (before := fun l => hardReset_sampling (s := s.portsAt s.collab l s.draws) hs)
    (during := fun c l d => hardReset_sampling (hcall none c l d))
    (silent := fun c l => hcall none c l _)
    (answered := fun a c l d => hk a _ (hcall (some a) c l d))

theorem releaseDrvThen_sampling {k : State → State} (hk : ∀ u, u.sampling = x → (k u).sampling = x) :
    (releaseDrvThen s k).sampling = x := by
  unfold releaseDrvThen
  split
  next => exact callThen_sampling hs fun _ u hu => hk (dropDrv u) hu
  next => exact hk s hs

/-- A release that ends the command in `Closed`: CLOSE, a failed NEGOTIATE (R144, R148). -/
theorem release_sampling (r : Reply) :
    (releaseThen s fun u => endCommand r (moveTo .closed u)).sampling = x := by
  have hdrv (u : State) (hu : u.sampling = x) :
      (releaseDrvThen u fun v => endCommand r (moveTo .closed v)).sampling = x :=
    releaseDrvThen_sampling hu fun v hv => endCommand_sampling (s := moveTo .closed v) hv r
  unfold releaseThen
  split
  next => exact callThen_sampling hs fun _ u hu => hdrv (dropCh u) hu
  next => exact hdrv s hs

theorem openChannel_sampling : (openChannel s endCommand).sampling = x :=
  callThen_sampling hs fun a u hu => by
    split
    next => exact callThen_sampling hu fun _ v hv => endCommand_sampling (s := dropDrv v) hv _
    next => exact endCommand_sampling (s := holdCh _ u) hu _

theorem openBody_sampling : (openBody s endCommand).sampling = x := by
  unfold openBody
  split
  next =>
    refine callThen_sampling hs fun a u hu => ?_
    split
    next => exact endCommand_sampling hu _
    next => exact openChannel_sampling (s := holdDrv _ u) hu
  next => exact endCommand_sampling hs _

theorem negotiateBody_sampling : (negotiateBody s endCommand).sampling = x := by
  unfold negotiateBody
  split
  next =>
    refine callThen_sampling hs fun a u hu => ?_
    split
    next => exact release_sampling hu _
    next =>
      refine callThen_sampling (s := moveTo .hostReady u) hu fun b v hv => ?_
      split
      next => exact release_sampling hv _
      next => exact endCommand_sampling (s := moveTo .busOn v) hv _
  next => exact endCommand_sampling hs _

theorem enterActive_sampling : (enterActive s).sampling = x := by
  unfold enterActive
  split
  next => exact hs
  next => exact hs

theorem readBody_sampling (t : Word32) : (readBody t s endCommand).sampling = x := by
  unfold readBody
  split
  next =>
    refine callThen_sampling (s := voidIn s) hs fun a u hu => ?_
    split
    next => exact endCommand_sampling (s := voidRx u) hu _
    next => exact endCommand_sampling (enterActive_sampling (s := storeRx a.data u) hu) _
  next => exact endCommand_sampling hs _

theorem readBackThen_sampling (t : Word32) : (readBackThen t s endCommand).sampling = x :=
  callThen_sampling hs fun a u hu => by
    split
    next => exact endCommand_sampling (s := voidRb (noteRbCode a.code u)) hu _
    next => exact endCommand_sampling (s := storeRb a.data u) hu _

theorem writeBody_sampling (v : Bool) (t : Word32) : (writeBody v t s endCommand).sampling = x := by
  unfold writeBody
  split
  next =>
    refine callThen_sampling (s := consumeTx s) hs fun a u hu => ?_
    have hactive : (enterActive u).sampling = x := enterActive_sampling hu
    split
    next => exact endCommand_sampling hu _
    next =>
      split
      next => exact readBackThen_sampling hactive t
      next => exact endCommand_sampling hactive _
  next => exact endCommand_sampling hs _

theorem decodeBody_sampling (len : Nat) : (decodeBody len s).2.sampling = x := by
  obtain ⟨-, h⟩ | ⟨-, h⟩ | ⟨-, -, h⟩ := decodeBody_cases len s <;> rw [h] <;> exact hs

theorem encodeBody_sampling : (encodeBody s).2.sampling = x := by
  obtain ⟨-, h⟩ | ⟨-, h⟩ := encodeBody_cases s <;> rw [h] <;> exact hs

end

/-- A command other than TICK and RUN samples neither port, whatever its environment does (R210). -/
theorem exec_sampling {i : Instr} {s t : State} (htick : ∀ tm, i ≠ .tick tm) (hrun : ∀ tm, i ≠ .run tm)
    (h : exec i s = .next t) : t.sampling = s.sampling := by
  have hb : s.begin.sampling = s.sampling := rfl
  cases i with
  | decode len => cases h; exact endCommand_sampling (decodeBody_sampling hb _) _
  | encode => cases h; exact endCommand_sampling (encodeBody_sampling hb) _
  | openCh => cases h; exact openBody_sampling hb
  | negotiate => cases h; exact negotiateBody_sampling hb
  | close => cases h; exact release_sampling hb _
  | read tm => cases h; exact readBody_sampling hb tm
  | write v tm => cases h; exact writeBody_sampling hb v tm
  | tick tm => exact absurd rfl (htick tm)
  | run tm => exact absurd rfl (hrun tm)

/-- Settles O51. -/
theorem onlySequencerPollsControl : Obligations.OnlySequencerPollsControl := by
  intro i s t htick hrun h
  obtain ⟨hctrl, hrest⟩ := Prod.ext_iff.mp (exec_sampling htick hrun h)
  obtain ⟨hpayload, hpolls⟩ := Prod.ext_iff.mp hrest
  exact ⟨hctrl, hpayload, hpolls⟩

end Sys2Proof.Machine

/-! SUPPORT. The family of `70_reset_and_hazards.md`: a reset from the host's port (R240, R241) and one that meets a
running command (R240), silence (R249), what a busy block drops (R245, R246), and the clean final state (R251). -/

namespace Sys2Proof.Machine

/-! ### A reset, whatever runs -/

/-- A reset clears the block in any state (R240). -/
theorem hardReset_atReset (s : State) : (hardReset s).atReset := cleared_atReset s.cfg s.draws

/-- A reset of the host ends all, whether `BUSY` is 0 or 1 (R240). -/
theorem hostTurn_reset (s : State) : hostTurn .reset s = .next (hardReset s) := by
  cases h : s.busy with
  | false => exact hostTurn_of_idle _ h
  | true => exact hostTurn_of_busy _ h

/-- Settles O11. -/
theorem resetClearsBlockAndClosesNothing : Obligations.ResetClearsBlockAndClosesNothing := by
  intro s rest hport
  have hstep : step s = .next (hardReset { s with hostPort := rest }) :=
    (step_of_hostPort hport).trans (hostTurn_reset _)
  exact ⟨_, hstep, hardReset_atReset _, rfl, rfl⟩

/-! ### A busy block -/

/-- While `BUSY` = 1 only a read, a reset and waiting do anything (R245, R246). -/
theorem hostBusy_dropped {a : HostAction} (s : State) (hget : ∀ r, a ≠ .get r) (hreset : a ≠ .reset)
    (hwait : a ≠ .wait) : hostBusy a s = .next s := by
  cases a with
  | get r => exact absurd rfl (hget r)
  | wait => exact absurd rfl hwait
  | reset => exact absurd rfl hreset
  | setCmd | setArg | setBoardName | setOutRec | setRxArea | present => rfl

/-- Settles O6. -/
theorem busyBlockDropsWritesAndFrames : Obligations.BusyBlockDropsWritesAndFrames := by
  refine ⟨fun s rest a hport hbusy hget hreset hwait => ?_, fun s rest hport => step_wait hport⟩
  calc step s = hostTurn a { s with hostPort := rest } := step_of_hostPort hport
    _ = hostBusy a { s with hostPort := rest } := hostTurn_of_busy a hbusy
    _ = .next { s with hostPort := rest } := hostBusy_dropped _ hget hreset hwait

/-! ### Silence -/

/-- A call that meets silence hangs (R249 (b)). -/
theorem callThen_silent {p : Primitive} {s : State} {k : Answer → State → State} {rest : List PortEvent}
    (hr : s.resetLine = []) (hc : s.collab = .silence :: rest) :
    callThen p s k = hang p ({ s with collab := rest }.observe (.call p none s.visible)) := by
  simp only [callThen, takeReset_nil hr, takeAnswer, hc]

/-- A command that hangs makes no progress by itself (R249 (b)). -/
theorem advance_of_hung {s : State} {p : Primitive} (h : s.activity = .hung p) : advance s = s := by
  simp only [advance, h]

/-- `t` hangs in the request `p`, with `STATE` as it was in `s`. -/
structure StillHung (p : Primitive) (s t : State) : Prop where
  activity : t.activity = .hung p
  busy : t.busy = true
  sess : t.sess = s.sess

/-- No host action but a reset ends a hung command: what is not dropped is a read, or waiting for what makes no
progress. -/
theorem hostBusy_hung {p : Primitive} {a : HostAction} {s₀ s t : State} (hs : StillHung p s₀ s) (ha : a ≠ .reset)
    (h : hostBusy a s = .next t) : StillHung p s₀ t := by
  cases a with
  | get r =>
    simp only [hostBusy, hostRead] at h
    split at h <;> cases h
    exact ⟨hs.activity, hs.busy, hs.sess⟩
  | wait =>
    rw [hostBusy, advance_of_hung hs.activity] at h
    cases h
    exact hs
  | reset => exact absurd rfl ha
  | setCmd | setArg | setBoardName | setOutRec | setRxArea | present => cases h; exact hs

/-- A hung command stays where it is until the host resets the block (R249 (b)). -/
theorem step_hung {p : Primitive} {s₀ s t : State} (hs : StillHung p s₀ s)
    (hhost : s.hostPort.head? ≠ some .reset) (h : step s = .next t) : StillHung p s₀ t := by
  cases hport : s.hostPort with
  | nil =>
    simp only [step, hport, advance_of_hung hs.activity] at h
    cases h
    exact hs
  | cons a rest =>
    have ha : a ≠ .reset := fun heq => hhost (by rw [hport, heq]; rfl)
    rw [step_of_hostPort hport, hostTurn_of_busy a (by exact hs.busy)] at h
    have htaken : StillHung p s₀ { s with hostPort := rest } := ⟨hs.activity, hs.busy, hs.sess⟩
    exact hostBusy_hung htaken ha h

/-- Settles O14: that the block hangs is an invariant of every step but the host's reset. -/
theorem silenceHangsTheBlock : Obligations.SilenceHangsTheBlock := by
  refine ⟨fun p s k rest hr hc => callThen_silent hr hc, fun p s t hact hbusy hstep hhost => ?_⟩
  obtain ⟨hact', hbusy', hsess⟩ := step_hung ⟨hact, hbusy, rfl⟩ hhost hstep
  exact ⟨hact', hbusy', hsess⟩

/-! ### The clean final state -/

/-- A block without handles holds no handle of any value. -/
theorem heldCounts_of_noHandles {s : State} (hs : s.noHandles = true) (h : Handle) :
    s.chHeld h = 0 ∧ s.drvHeld h = 0 := by
  obtain ⟨hdrv, hch⟩ := (noHandles_iff s).mp hs
  simp [State.chHeld, State.drvHeld, hdrv, hch]

/-- Settles O57: in `Closed` the session invariant leaves no handle held, so what is acquired has been closed. -/
theorem closedSessionIsClean : Obligations.ClosedSessionIsClean := by
  intro s hinv hleak hidle hclosed
  have hnone : s.noHandles = true := by
    obtain ⟨-, hfits⟩ := (sessionInv_idle hidle).mp hinv
    rwa [State.sessionFits, hclosed] at hfits
  obtain ⟨hdrv, hch⟩ := (noHandles_iff s).mp hnone
  refine ⟨hclosed, hch, hdrv, fun h => ?_⟩
  have hheld := heldCounts_of_noHandles hnone h
  have hcount := hleak h
  omega

/-! ### What a command records

A property of the history is followed through all nine commands at once, to where the command stops: a reset, the
response, a request that is never answered, or the end of a tick of RUN. -/

/-- An entry a command makes while it runs: neither a reset nor the response. -/
def Obs.inCommand (o : Obs) : Prop := o.isReset = false ∧ o.isResponse = false

theorem inCommand_of_ofExchange {o : Obs} (h : o.ofExchange = true) : o.inCommand := by
  cases o with
  | event | poll | wait | call => exact ⟨rfl, rfl⟩
  | response | got | reset => cases h

/-- `Q` is a property of the history that the entries of a running command keep, and `P` holds of every state the
command can stop in. Then `hc.through_f` says, as for `Carried`: if `P` holds of what comes after `f` wherever `Q`
does, it holds of `f` and what comes after it. -/
structure Recorded (Q : List Obs → Prop) (P : State → Prop) : Prop where
  record {h : List Obs} {o : Obs} : o.inCommand → Q h → Q (h ++ [o])
  reset {s : State} : Q s.history → P (hardReset s)
  respond {s : State} (r : Reply) : Q s.history → P (respond r s)
  stay {s : State} : Q s.history → P s

section
variable {Q : List Obs → Prop} {P : State → Prop} (hc : Recorded Q P)
include hc

theorem Recorded.carried : Carried (fun u => Q u.history) P where
  keep hu hs := by
    cases hu with
    | observe o ho => exact hc.record (inCommand_of_ofExchange ho) hs
    | enterActive => rwa [enterActive_history]
    | _ => exact hs
  reset := hc.reset
  silent _ hs := hc.stay hs

variable {s : State} (hs : Q s.history)
include hs

theorem Recorded.through_endCommand (r : Reply) : P (endCommand r s) :=
  orReset_elim (fun l => hc.respond (s := s.portsAt s.collab l s.draws) r hs)
    (fun l => hc.reset (s := s.portsAt s.collab l s.draws) hs)

theorem Recorded.through_callThen {p : Primitive} {k : Answer → State → State}
    (hk : ∀ a u, Q u.history → P (k a u)) : P (callThen p s k) :=
  have hcall (a) : Q (s.history ++ [.call p a s.visible]) := hc.record ⟨rfl, rfl⟩ hs
  callThen_elim
    (before := fun l => hc.reset (s := s.portsAt s.collab l s.draws) hs)
    (during := fun _ _ _ => hc.reset (hcall none))
    (silent := fun _ _ => hc.stay (hcall none))
    (answered := fun a _ _ _ => hk a _ (hcall (some a)))

theorem Recorded.through_releaseDrvThen {k : State → State} (hk : ∀ u, Q u.history → P (k u)) :
    P (releaseDrvThen s k) := by
  unfold releaseDrvThen
  split
  next => exact hc.through_callThen hs fun _ u hu => hk (dropDrv u) hu
  next => exact hk s hs

/-- A release that ends the command in `Closed`: CLOSE, a failed NEGOTIATE, the end of RUN (R144, R148, R188). -/
theorem Recorded.through_release (r : Reply) : P (releaseThen s fun u => endCommand r (moveTo .closed u)) := by
  have hend (u : State) (hu : Q u.history) : P (endCommand r (moveTo .closed u)) :=
    hc.through_endCommand (s := moveTo .closed u) hu r
  unfold releaseThen
  split
  next => exact hc.through_callThen hs fun _ u hu => hc.through_releaseDrvThen (s := dropCh u) hu hend
  next => exact hc.through_releaseDrvThen hs hend

theorem Recorded.through_openChannel : P (openChannel s endCommand) :=
  hc.through_callThen hs fun a u hu => by
    split
    next => exact hc.through_callThen hu fun _ v hv => hc.through_endCommand (s := dropDrv v) hv _
    next => exact hc.through_endCommand (s := holdCh _ u) hu _

theorem Recorded.through_openBody : P (openBody s endCommand) := by
  unfold openBody
  split
  next =>
    refine hc.through_callThen hs fun a u hu => ?_
    split
    next => exact hc.through_endCommand hu _
    next => exact hc.through_openChannel (s := holdDrv _ u) hu
  next => exact hc.through_endCommand hs _

theorem Recorded.through_negotiateBody : P (negotiateBody s endCommand) := by
  unfold negotiateBody
  split
  next =>
    refine hc.through_callThen hs fun a u hu => ?_
    split
    next => exact hc.through_release hu _
    next =>
      refine hc.through_callThen (s := moveTo .hostReady u) hu fun b v hv => ?_
      split
      next => exact hc.through_release hv _
      next => exact hc.through_endCommand (s := moveTo .busOn v) hv _
  next => exact hc.through_endCommand hs _

theorem Recorded.through_runTick (t : Word32) : P (runTick t s) :=
  hc.carried.through_tickBody t hs fun _ _ hu => by
    split
    next => exact hc.through_release hu _
    next => exact hc.stay hu

/-- Whatever command runs, and wherever its environment stops it. -/
theorem Recorded.of_exec {i : Instr} {t : State} (h : exec i s = .next t) : P t := by
  have hb : Q s.begin.history := hs
  have hend (r u) (hu : Q u.history) : P (endCommand r u) := hc.through_endCommand hu r
  cases i with
  | decode len => cases h; exact hend _ _ (hc.carried.keep_decodeBody _ hb)
  | encode => cases h; exact hend _ _ (hc.carried.keep_encodeBody hb)
  | openCh => cases h; exact hc.through_openBody hb
  | negotiate => cases h; exact hc.through_negotiateBody hb
  | close => cases h; exact hc.through_release hb _
  | read t => cases h; exact hc.carried.through_readBody t hb hend
  | write v t => cases h; exact hc.carried.through_writeBody v t hb hend
  | tick t => cases h; exact hc.carried.through_tickBody t hb hend
  | run t =>
    cases h
    split
    next => exact hc.through_runTick (s := loopOn t s.begin) hb t
    next => exact hc.through_release hb _

end

/-! ### A reset that meets a command -/

/-- The history `h` has grown from that of `s` with neither a reset nor a response. -/
structure Unbroken (s : State) (h : List Obs) : Prop where
  resets : h.countP Obs.isReset = s.seen Obs.isReset
  responses : h.countP Obs.isResponse = s.seen Obs.isResponse

/-- The command begun in `s` was cut off by a reset, whose state is `t` (R240). -/
structure Abandoned (s t : State) : Prop where
  atReset : t.atReset
  responses : t.seen Obs.isResponse = s.seen Obs.isResponse
  last : t.history.getLast? = some .reset

/-- An entry of another kind leaves the count. -/
theorem countP_concat_of_not (h : List Obs) {o : Obs} {f : Obs → Bool} (ho : f o = false) :
    (h ++ [o]).countP f = h.countP f := by
  simp [ho]

/-- A command sees no reset, or stops in the state the reset leaves. -/
theorem recorded_unbroken (s : State) :
    Recorded (Unbroken s) fun t => t.seen Obs.isReset = s.seen Obs.isReset ∨ Abandoned s t where
  record ho hu :=
    ⟨(countP_concat_of_not _ ho.1).trans hu.resets, (countP_concat_of_not _ ho.2).trans hu.responses⟩
  reset {u} hu := .inr
    { atReset := hardReset_atReset u
      responses := (countP_concat_of_not u.history rfl).trans hu.responses
      last := List.getLast?_concat }
  respond {u} _ hu := .inl ((countP_concat_of_not u.history rfl).trans hu.resets)
  stay hu := .inl hu.resets

/-- Settles O12: a command whose history shows a new reset has stopped in the state that reset left. -/
theorem resetAbandonsCommand : Obligations.ResetAbandonsCommand := by
  intro i s t hexec hreset
  obtain hnone | ⟨hat, hresponses, hlast⟩ := (recorded_unbroken s).of_exec ⟨rfl, rfl⟩ hexec
  · exact absurd hnone hreset.ne'
  · exact ⟨hat, hresponses, hlast⟩

end Sys2Proof.Machine
